-- ==== Sys2Proof/Word.lean ====
section
/-! DEFINITION. The word types of the Rencoder CORE (spec/00_scope.md rule R12, spec/30_encoding.md rule R78). -/

namespace Sys2Proof

/-- `int_16`: POSITION, DELTA, SET_COUNT's operand and the response data (R12, R20, R21, R74). -/
abbrev Half := BitVec 16

/-- One host command word, format H (R70). -/
abbrev CommandWord := BitVec 32

/-- One event word, format E (R80). -/
abbrev EventWord := BitVec 8

/-- The level of an input line: `true` is high, `false` is low (R100, R130). -/
abbrev Level := Bool

end Sys2Proof
end

