-- ==== Sys2Proof/Config.lean ====
section
/-! DEFINITION. The block's parameters (spec/00_scope.md rule R8) and the free inputs of the outside world. -/

namespace Sys2Proof

namespace Config

/-- The value of the parameter `TS_W` for this hardware (R8, R10, decision D6; log 9). -/
abbrev tsW : Nat := 32

/-- The smallest `TS_W` a model admits (R10). -/
def minTsW : Nat := 20

/-- The widths the model admits as `TS_W` (R10). -/
def admitsWidth (w : Nat) : Bool := decide (minTsW ≤ w)

/-- `PAT_CW` = 0b01_00_10_11 (R8, R108). -/
def patCw : BitVec 8 := 0x4B#8

/-- `PAT_CCW` = 0b10_00_01_11 (R8, R108). -/
def patCcw : BitVec 8 := 0x87#8

/-- `DEBOUNCE_US` in microseconds (R8, R9; unaudited in the source, log 15). -/
def debounceUs : Nat := 10000

/-- `DBLCLICK_US` in microseconds (R8, R9; unaudited in the source, log 15). -/
def dblclickUs : Nat := 500000

/-- `N_INST` (R8, R215). -/
def nInst : Nat := 1

/-! Free values: the inputs of a clock cycle for which `State.stimulus` lists nothing (log 2). They have no
body, so nothing can be proved about what the outside world presents then. The argument is `State.draws`. -/

/-- Whether RST is asserted in the n-th free cycle. -/
opaque freeRst : Nat → Bool

/-- The level of the HAS_BUTTON input in the n-th free cycle (read only while RST is asserted). -/
opaque freeHasButton : Nat → Bool

/-- The command word HOST presents in the n-th free cycle, if any. -/
opaque freeCommand : Nat → Option CommandWord

/-- The level of QA in the n-th free cycle. -/
opaque freeQa : Nat → Level

/-- The level of QB in the n-th free cycle. -/
opaque freeQb : Nat → Level

/-- The level of BTN_IN in the n-th free cycle. -/
opaque freeBtnIn : Nat → Level

/-- The value of TIME in the n-th free cycle, for every `TS_W` (R213: any `TS_W`-bit value). -/
opaque freeNow (w : Nat) : Nat → BitVec w

end Config

/-- `bits_TS_W` of this hardware: `now`, DEBOUNCE_TS and LAST_CLICK (R12, R30, R31). -/
abbrev Timestamp := BitVec Config.tsW

end Sys2Proof
end

