-- ==== Sys2Proof/Syntax.lean ====
section
/-! DEFINITION. The instructions (spec/opcode_table.json), the words at the ports, and the source forms of
spec/30_encoding.md section 3 (assembler lines, stimulus items, API calls). -/

namespace Sys2Proof

/-- One transaction: the eight host commands and the two events (R2). `clr` is the source's `clearOnRead`,
the inverse of the PEEK bit (R71). BEDGE's `now` is no part of its word (R79, R131). -/
inductive Instr where
  /-- GET_COUNT (R160). -/
  | getCount
  /-- SET_COUNT v (R161). -/
  | setCount (v : Half)
  /-- GET_DIFF (R162). -/
  | getDiff (clr : Bool)
  /-- IS_MOVED (R163). -/
  | isMoved (clr : Bool)
  /-- IS_PRESSED (R164). -/
  | isPressed (clr : Bool)
  /-- IS_CLICKED (R165). -/
  | isClicked (clr : Bool)
  /-- IS_DOUBLE_CLICKED (R166). -/
  | isDoubleClicked (clr : Bool)
  /-- CLEAR (R167). -/
  | clear
  /-- QSAMPLE sym, sym[1] = A and sym[0] = B (R102). -/
  | qsample (sym : BitVec 2)
  /-- BEDGE (R131). -/
  | bedge
  deriving DecidableEq, Repr

/-- A word at one of the two ports (R50, R78): the command port or the event port. -/
inductive PortWord where
  /-- A 32-bit word of format H at the command port. -/
  | host (w : CommandWord)
  /-- An 8-bit word of format E at the event port. -/
  | event (e : EventWord)
  deriving DecidableEq, Repr

/-- Why a word is no instruction. -/
inductive Reject where
  /-- ILLEGAL: a command word outside the eight defined commands (R75, R76). -/
  | illegalCommand
  /-- ILLEGAL_EVENT: an event word outside QSAMPLE and BEDGE (R81, R82). -/
  | illegalEvent
  deriving DecidableEq, Repr

/-! ## Assembler lines (R83) -/

/-- The mnemonics of the host commands (R83). -/
inductive Mnemonic where
  | getCount
  | setCount
  | getDiff
  | isMoved
  | isPressed
  | isClicked
  | isDoubleClicked
  | clear
  deriving DecidableEq, Repr

/-- A numeric operand as written: a decimal integer or a hexadecimal number (R83). -/
inductive Literal where
  | dec (v : Int)
  | hex (v : Nat)
  deriving DecidableEq, Repr

/-- One assembler line: a mnemonic, whether `.PEEK` qualifies it, and its `#` operand if written (R83). -/
structure AsmLine where
  mnemonic : Mnemonic
  peek : Bool
  operand : Option Literal
  deriving DecidableEq, Repr

/-! ## Stimulus lines (R84) -/

/-- One transaction of a stimulus: `QSAMPLE ab`, `BEDGE @t`, an assembler line, or a command word written as
its 32 bits (used by the programs of spec/95_test_vectors.md for words that have no mnemonic). -/
inductive StimItem where
  | command (l : AsmLine)
  | word (w : Nat)
  | qsample (a b : Bool)
  | bedge (t : Nat)
  deriving DecidableEq, Repr

/-! ## API calls (R85) -/

/-- The source's API calls; an absent `clearOnRead` argument is `none` (R85). -/
inductive ApiCall where
  | getCount
  | setCount (v : Literal)
  | getDiff (clearOnRead : Option Bool)
  | isMoved (clearOnRead : Option Bool)
  | isPressed (clearOnRead : Option Bool)
  | isClicked (clearOnRead : Option Bool)
  | isDoubleClicked (clearOnRead : Option Bool)
  | clear
  | nop
  deriving DecidableEq, Repr

end Sys2Proof
end

