-- ==== Sys2Proof/WellFormed.lean ====
section
/-! DEFINITION. Which source forms are legal (spec/30_encoding.md rules R83, R84; spec/20_memory.md rule R53).
An `Instr` carries its operands at exactly the widths of the encodings, so every `Instr` is well formed. -/

namespace Sys2Proof

/-- The mnemonics that take `.PEEK` (R71, R83). -/
def Mnemonic.takesPeek : Mnemonic → Bool
  | .getDiff | .isMoved | .isPressed | .isClicked | .isDoubleClicked => true
  | .getCount | .setCount | .clear => false

/-- SET_COUNT's operand range: decimal -32768 to 32767, hexadecimal 0x0000 to 0xFFFF (R83). -/
def Literal.inRange : Literal → Bool
  | .dec v => decide (-32768 ≤ v ∧ v ≤ 32767)
  | .hex v => decide (v ≤ 0xFFFF)

/-- The operand a mnemonic needs: one for SET_COUNT, in range, and none for the others (R83). -/
def AsmLine.operandOk (l : AsmLine) : Bool :=
  match l.mnemonic, l.operand with
  | .setCount, some v => v.inRange
  | .setCount, none => false
  | _, some _ => false
  | _, none => true

/-- `.PEEK` only where it has a meaning (R83). -/
def AsmLine.peekOk (l : AsmLine) : Bool := !l.peek || l.mnemonic.takesPeek

/-- A line the assembler accepts (R83). -/
def AsmLine.wellFormed (l : AsmLine) : Bool := l.peekOk && l.operandOk

/-- Whether the item is a host command. -/
def StimItem.isCommand : StimItem → Bool
  | .command _ | .word _ => true
  | .qsample _ _ | .bedge _ => false

/-- Whether the item is a QSAMPLE. -/
def StimItem.isQsample : StimItem → Bool
  | .qsample _ _ => true
  | .command _ | .word _ | .bedge _ => false

/-- Whether the item is a BEDGE. -/
def StimItem.isBedge : StimItem → Bool
  | .bedge _ => true
  | .command _ | .word _ | .qsample _ _ => false

/-- One item is legal: the line assembles, a word fits 32 bits, a time fits `TS_W` = w bits (R83, R84, R70, R12). -/
def StimItem.wellFormed (w : Nat) : StimItem → Bool
  | .command l => l.wellFormed
  | .word n => decide (n < 2 ^ 32)
  | .qsample _ _ => true
  | .bedge t => decide (t < 2 ^ w)

/-- The items of one `CYCLE` are legal: each is, and at most one is of each kind (R53, R84). -/
def cycleItemsWellFormed (w : Nat) (items : List StimItem) : Bool :=
  items.all (StimItem.wellFormed w) && decide (items.countP StimItem.isCommand ≤ 1)
    && decide (items.countP StimItem.isQsample ≤ 1) && decide (items.countP StimItem.isBedge ≤ 1)

end Sys2Proof
end

