-- ==== Sys2Proof/Decode.lean ====
section
/-! DEFINITION. Decoders, total on every word (spec/30_encoding.md rules R70 to R82), and the encoder. -/

namespace Sys2Proof

/-! ## Fields of format H (R70) and format E (R80) -/

/-- `OP`, bits 31:28. -/
def opField (w : CommandWord) : BitVec 4 := w.extractLsb' 28 4

/-- `RSV`, bits 27:17. -/
def rsvField (w : CommandWord) : BitVec 11 := w.extractLsb' 17 11

/-- `PEEK`, bit 16. -/
def peekField (w : CommandWord) : Bool := w.getLsbD 16

/-- `DATA`, bits 15:0. -/
def dataField (w : CommandWord) : Half := w.extractLsb' 0 16

/-- `KIND`, bits 7:6. -/
def kindField (e : EventWord) : BitVec 2 := e.extractLsb' 6 2

/-- `ERSV`, bits 5:2. -/
def ersvField (e : EventWord) : BitVec 4 := e.extractLsb' 2 4

/-- `{A, B}`, bits 1:0. -/
def symField (e : EventWord) : BitVec 2 := e.extractLsb' 0 2

/-! ## Decoders -/

/-- `i` where the word meets the command's constraint, ILLEGAL otherwise. -/
def commandIf (ok : Bool) (i : Instr) : Except Reject Instr :=
  if ok then .ok i else .error .illegalCommand

/-- `clearOnRead = (PEEK == 0)` (R71). -/
def clrOf (w : CommandWord) : Bool := !peekField w

/-- `decode_H` (R75): total on every 32-bit word. -/
def decodeCommand (w : CommandWord) : Except Reject Instr :=
  let noPeek := !peekField w
  let noData := dataField w == 0
  if rsvField w ≠ 0 then .error .illegalCommand
  else match (opField w).toNat with
    | 0 => commandIf (noPeek && noData) .getCount
    | 1 => commandIf noPeek (.setCount (dataField w))
    | 2 => commandIf noData (.getDiff (clrOf w))
    | 3 => commandIf noData (.isMoved (clrOf w))
    | 4 => commandIf noData (.isPressed (clrOf w))
    | 5 => commandIf noData (.isClicked (clrOf w))
    | 6 => commandIf noData (.isDoubleClicked (clrOf w))
    | 7 => commandIf (noPeek && noData) .clear
    | _ => .error .illegalCommand

/-- `decode_E` (R81): total on every 8-bit word. -/
def decodeEvent (e : EventWord) : Except Reject Instr :=
  if ersvField e ≠ 0 then .error .illegalEvent
  else match (kindField e).toNat with
    | 0 => .ok (.qsample (symField e))
    | 1 => if symField e = 0 then .ok .bedge else .error .illegalEvent
    | _ => .error .illegalEvent

/-- The decoder of the port the word stands at. -/
def decode : PortWord → Except Reject Instr
  | .host w => decodeCommand w
  | .event e => decodeEvent e

/-- The instruction read from a word numbered as spec/opcode_table.json numbers its bits. Rows of up to 8 bits
are event words and longer ones command words (log 16). -/
def decodeTableWord (nbits w : Nat) : Option Instr :=
  if nbits ≤ 8 then (decodeEvent (BitVec.ofNat 8 w)).toOption
  else (decodeCommand (BitVec.ofNat 32 w)).toOption

/-! ## Encoder -/

/-- A command word of format H with RSV = 0 (R70). -/
def commandWord (op : BitVec 4) (peek : Bool) (data : Half) : CommandWord :=
  op ++ 0#11 ++ BitVec.ofBool peek ++ data

/-- An event word of format E with ERSV = 0 (R80). -/
def eventWord (kind : BitVec 2) (sym : BitVec 2) : EventWord :=
  kind ++ 0#4 ++ sym

/-- The word of each instruction (R72, R80). -/
def encode : Instr → PortWord
  | .getCount => .host (commandWord 0x0#4 false 0)
  | .setCount v => .host (commandWord 0x1#4 false v)
  | .getDiff clr => .host (commandWord 0x2#4 (!clr) 0)
  | .isMoved clr => .host (commandWord 0x3#4 (!clr) 0)
  | .isPressed clr => .host (commandWord 0x4#4 (!clr) 0)
  | .isClicked clr => .host (commandWord 0x5#4 (!clr) 0)
  | .isDoubleClicked clr => .host (commandWord 0x6#4 (!clr) 0)
  | .clear => .host (commandWord 0x7#4 false 0)
  | .qsample sym => .event (eventWord 0b00#2 sym)
  | .bedge => .event (eventWord 0b01#2 0)

end Sys2Proof
end

