-- ==== Sys2Proof/Machine/State.lean ====
section
/-! DEFINITION. The state of the block (spec/10_state.md), the inputs of one clock cycle (spec/20_memory.md
rule R50) and the reset state (rule R33). -/

namespace Sys2Proof.Machine

/-- BTN, the logical debounced button state (R29). -/
inductive Button where
  /-- Released, encoded 0. -/
  | released
  /-- Pressed, encoded 1 (BTN_PRESSED). -/
  | pressed
  deriving DecidableEq, Repr

/-- A response `(ERR, RDATA)` of a host command (R74). -/
structure Response where
  err : Bool
  rdata : Half
  deriving DecidableEq, Repr

/-- What the outside world presents in one clock cycle, for `TS_W` = w (R50, R53, R230, R10; log 1). -/
structure CycleInput.At (w : Nat) where
  /-- RST is asserted (R230). -/
  rst : Bool
  /-- The level of HAS_BUTTON, read only while RST is asserted (R34, R234; log 4). -/
  hasButton : Bool
  /-- The command word HOST presents, at most one in a cycle (R53, R174). -/
  command : Option CommandWord
  /-- The pin levels (R100, R130). -/
  qa : Level
  qb : Level
  btnIn : Level
  /-- `none`: the front end presents the events of the pins. `some ws`: the words `ws` are presented at the
  event-level interface in its place (R79). -/
  events : Option (List EventWord)
  /-- The value of TIME (R211, R213). -/
  now : BitVec w
  deriving DecidableEq, Repr

/-- The inputs of one clock cycle of this hardware. -/
abbrev CycleInput := CycleInput.At Config.tsW

/-- Everything the spec gives the machine, the latched configuration input, the response port, and the model's
own fields for what the outside world presents, for `TS_W` = w: the width is a parameter of the model (R10). -/
structure State.At (w : Nat) where
  /-- POSITION (R20). -/
  position : Half
  /-- DELTA (R21). -/
  delta : Half
  /-- HIST (R23). -/
  hist : BitVec 8
  /-- FLAGS: Moved 0, Pressed 1, Clicked 2, DoubleClicked 3 (R24). -/
  flags : BitVec 4
  /-- BTN (R29). -/
  btn : Button
  /-- DEBOUNCE_TS (R30). -/
  debounceTs : BitVec w
  /-- LAST_CLICK (R31). -/
  lastClick : BitVec w
  /-- QA_PREV (R32). -/
  qaPrev : Level
  /-- QB_PREV (R32). -/
  qbPrev : Level
  /-- BTN_PREV (R32). -/
  btnPrev : Level
  /-- The next clock cycle is the first one after reset, the capture cycle (R100, R230). -/
  capture : Bool
  /-- HAS_BUTTON as fixed before RST was released (R34, R234; log 4). -/
  hasButton : Bool
  /-- The response port: the response given in the last cycle, if a command was taken in it (R74, R250). -/
  response : Option Response
  /-- The model's own: TIME in the current cycle (R131, R211). -/
  now : BitVec w
  /-- The model's own: the inputs of the coming cycles, the next one first (log 1). -/
  stimulus : List (CycleInput.At w)
  /-- The model's own: how many cycles have taken free inputs (log 2). -/
  draws : Nat
  deriving DecidableEq, Repr

/-- The state of this hardware, whose `TS_W` is 32 (R8, R10). -/
abbrev State := State.At Config.tsW

/-- The reasons for a fault. There is none: the block raises no exception, every transaction completes, and no
behaviour of it is treated as a fault (R200; spec/93_implementation_defined.md). -/
inductive Fault where
  deriving DecidableEq, Repr

/-- The reasons for a refusal. -/
inductive Refusal where
  /-- Raised by an arm of `exec` whose instruction has no meaning yet, under its mnemonic. Safe: nothing is
  claimed about such an instruction. No arm raises it in this model. -/
  | notModelled (mnemonic : String)
  deriving DecidableEq, Repr

/-- The outcome of a transaction or of a cycle, for `TS_W` = w. -/
abbrev OutcomeAt (w : Nat) := Host.Outcome (State.At w) Fault Refusal

/-- The machine right after reset: RST has just been released and the next cycle is the capture cycle (R33, R230,
R233), for every `TS_W`. The fields from `qaPrev` on hold values the model names (logs 1 to 4). -/
def State.resetAt (w : Nat) : State.At w where
  position := 0
  delta := 0
  hist := 0
  flags := 0
  btn := .released
  debounceTs := 0
  lastClick := 0
  qaPrev := true
  qbPrev := true
  btnPrev := true
  capture := true
  hasButton := true
  response := none
  now := 0
  stimulus := []
  draws := 0

/-- This hardware right after reset. -/
def State.reset : State := State.resetAt Config.tsW

end Sys2Proof.Machine
end

