-- ==== Sys2Proof/Machine/Flags.lean ====
section
/-! DEFINITION. The flag register's operations (spec/10_state.md rules R24 to R27; spec/00_scope.md rule R13). -/

namespace Sys2Proof.Machine

/-- The four flags (R24). -/
inductive Flag where
  | moved
  | pressed
  | clicked
  | doubleClicked
  deriving DecidableEq, Repr

/-- The bit position of each flag (R24). -/
def flagBit : Flag → Nat
  | .moved => 0
  | .pressed => 1
  | .clicked => 2
  | .doubleClicked => 3

/-- The one-hot mask of a flag. -/
def flagMask (f : Flag) : BitVec 4 := 1#4 <<< flagBit f

/-- `FLAGS.f`. -/
def readFlag (f : Flag) (fl : BitVec 4) : Bool := fl.getLsbD (flagBit f)

/-- `FLAGS.f <- 1`: the other bits are unchanged (R13, R26). -/
def setFlag (f : Flag) (fl : BitVec 4) : BitVec 4 := fl ||| flagMask f

/-- `FLAGS.f <- 0`: the other bits are unchanged (R13). -/
def clearFlag (f : Flag) (fl : BitVec 4) : BitVec 4 := fl &&& ~~~(flagMask f)

/-- `FLAGS <- 4'b0000` (R167). -/
def clearedFlags : BitVec 4 := 0#4

end Sys2Proof.Machine
end

