-- ==== Sys2Proof/Machine/Operands.lean ====
section
/-! DEFINITION. Operand forms: the symbol of the pins (R81, R100, R102), the words the front ends present (R79, R80), the
response value of a flag (R74) and the time comparisons (R132, R170). -/

namespace Sys2Proof.Machine

/-- `{A, B}`, pin A in the high bit (R102). -/
def symbolOf (a b : Level) : BitVec 2 := BitVec.ofBool a ++ BitVec.ofBool b

/-- The event word of QSAMPLE {QA, QB} (R80). -/
def sampleWord (a b : Level) : EventWord := eventWord 0b00#2 (symbolOf a b)

/-- The event word of BEDGE, 0x40 (R80, R131). -/
def edgeWord : EventWord := eventWord 0b01#2 0

/-- `zext_16` of a flag (R74). -/
def boolData (b : Bool) : Half := (BitVec.ofBool b).setWidth 16

/-- The encoding of BTN, Released = 0 and Pressed = 1 (R29). -/
def buttonBit : Button → BitVec 1
  | .released => 0
  | .pressed => 1

/-- A difference of timestamps, modulo 2^w, for any width w (R12, R132, R145). -/
def timeSince {w : Nat} (now since : BitVec w) : BitVec w := now - since

/-- `u(elapsed) < DEBOUNCE_US`: the edge is discarded; the comparison is strict (R132, R140). -/
def insideDebounce {w : Nat} (now since : BitVec w) : Bool :=
  decide ((timeSince now since).toNat < Config.debounceUs)

/-- `u(gap) <= DBLCLICK_US` (R132, R133, R140). -/
def insideDoubleClick {w : Nat} (now since : BitVec w) : Bool :=
  decide ((timeSince now since).toNat ≤ Config.dblclickUs)

end Sys2Proof.Machine
end

