-- ==== Sys2Proof/Machine/Ops.lean ====
section
/-! DEFINITION. The named operations over registers (the primitives of spec/00_scope.md rule R13). The block has
no memory (R50) and takes no exception (R200, R207), so there are none for those. -/

namespace Sys2Proof.Machine

variable {w : Nat}

/-- One transaction after another: each sees the writes of the earlier ones (R53). -/
def andThen (o : OutcomeAt w) (f : State.At w → OutcomeAt w) : OutcomeAt w :=
  match o with
  | .next s => f s
  | .fault r => .fault r
  | .refused r => .refused r

/-- `POSITION <- v` (R20). -/
def putPosition (v : Half) (s : State.At w) : State.At w := { s with position := v }

/-- `DELTA <- v` (R21). -/
def putDelta (v : Half) (s : State.At w) : State.At w := { s with delta := v }

/-- `HIST <- h` (R23). -/
def putHist (h : BitVec 8) (s : State.At w) : State.At w := { s with hist := h }

/-- `FLAGS <- fl` (R24). -/
def putFlags (fl : BitVec 4) (s : State.At w) : State.At w := { s with flags := fl }

/-- `BTN <- b` (R29). -/
def putBtn (b : Button) (s : State.At w) : State.At w := { s with btn := b }

/-- `DEBOUNCE_TS <- t` (R30). -/
def putDebounceTs (t : BitVec w) (s : State.At w) : State.At w := { s with debounceTs := t }

/-- `LAST_CLICK <- t` (R31). -/
def putLastClick (t : BitVec w) (s : State.At w) : State.At w := { s with lastClick := t }

/-- `respond(rdata, err)` (R13, R74). -/
def respond (rdata : Half) (err : Bool) (s : State.At w) : State.At w := { s with response := some ⟨err, rdata⟩ }

/-- The answer to an ILLEGAL command word: ERR = 1, RDATA = 0x0000, no state change (R76, R201). -/
def respondIllegal (s : State.At w) : State.At w := respond 0 true s

/-- `FLAGS.f <- 1`, the other flags unchanged (R13, R26). -/
def raiseFlag (f : Flag) (s : State.At w) : State.At w := putFlags (setFlag f s.flags) s

/-- `FLAGS.f <- 0`, the other flags unchanged (R13). -/
def dropFlag (f : Flag) (s : State.At w) : State.At w := putFlags (clearFlag f s.flags) s

end Sys2Proof.Machine
end

