-- ==== Sys2Proof/Machine/FrontEnd.lean ====
section
/-! DEFINITION. The front ends of the pins (spec/40_quadrature.md rule R100, spec/41_button.md rule R130) and what stands
at the event port in a cycle (spec/30_encoding.md rule R79). -/

namespace Sys2Proof.Machine

variable {w : Nat}

/-- `front_end_Q`: one QSAMPLE when either quadrature level differs from the previous one (R100). -/
def quadratureWords (c : CycleInput.At w) (s : State.At w) : List EventWord :=
  if symbolOf c.qa c.qb ≠ symbolOf s.qaPrev s.qbPrev then [sampleWord c.qa c.qb] else []

/-- `front_end_B`: one BEDGE when the button level differs, if the button is connected (R130). -/
def buttonWords (c : CycleInput.At w) (s : State.At w) : List EventWord :=
  if s.hasButton && c.btnIn != s.btnPrev then [edgeWord] else []

/-- The event words of the cycle: none in the capture cycle (R231, log 6), else the front ends' or those presented
at the event-level interface in their place (R79). -/
def presentedWords (c : CycleInput.At w) (s : State.At w) : List EventWord :=
  if s.capture then []
  else match c.events with
    | some ws => ws
    | none => quadratureWords c s ++ buttonWords c s

/-- The QSAMPLE a word decodes to, if it is one. -/
def asSample (e : EventWord) : Option Instr :=
  match decodeEvent e with
  | .ok (.qsample sym) => some (.qsample sym)
  | _ => none

/-- The BEDGE a word decodes to, if it is one. -/
def asEdge (e : EventWord) : Option Instr :=
  match decodeEvent e with
  | .ok .bedge => some .bedge
  | _ => none

/-- The cycle's QSAMPLE: at most one is taken (R53, log 11); an ILLEGAL_EVENT is ignored (R82, log 8). -/
def sampleOf (ws : List EventWord) : Option Instr := ws.findSome? asSample

/-- The cycle's BEDGE: at most one is taken (R53, log 11). -/
def edgeOf (ws : List EventWord) : Option Instr := ws.findSome? asEdge

/-- `QA_PREV <- QA ; QB_PREV <- QB ; BTN_PREV <- BTN_IN` in every cycle, which ends the capture cycle (R100, R130;
log 13). -/
def latchLevels (c : CycleInput.At w) (s : State.At w) : State.At w :=
  { s with qaPrev := c.qa, qbPrev := c.qb, btnPrev := c.btnIn, capture := false }

end Sys2Proof.Machine
end

