-- ==== Sys2Proof/Machine/Cycle.lean ====
section
/-! DEFINITION. One clock cycle: where its inputs come from, and the order of its transactions (spec/20_memory.md
rules R52, R53; spec/70_reset_and_hazards.md rules R230, R231, R250). -/

namespace Sys2Proof.Machine

variable {w : Nat}

/-- The n-th cycle of free inputs: the pins drive the front ends (log 2). -/
def freeInput (w : Nat) (n : Nat) : CycleInput.At w where
  rst := Config.freeRst n
  hasButton := Config.freeHasButton n
  command := Config.freeCommand n
  qa := Config.freeQa n
  qb := Config.freeQb n
  btnIn := Config.freeBtnIn n
  events := none
  now := Config.freeNow w n

/-- The inputs of the next cycle: the first the stimulus lists, else free ones (logs 1 and 2). -/
def nextInput (s : State.At w) : CycleInput.At w :=
  match s.stimulus with
  | c :: _ => c
  | [] => freeInput w s.draws

/-- The state once those inputs have been taken. -/
def takeInput (s : State.At w) : State.At w :=
  match s.stimulus with
  | _ :: rest => { s with stimulus := rest }
  | [] => { s with draws := s.draws + 1 }

/-- RST is asserted: every element is held at its reset value and the next cycle may be the capture cycle; a
command presented gets no response (R230, R231). HAS_BUTTON is read (R234, log 4). -/
def resetCycle (c : CycleInput.At w) (s : State.At w) : State.At w :=
  { State.resetAt w with hasButton := c.hasButton, now := c.now, stimulus := s.stimulus, draws := s.draws }

/-- The cycle begins: TIME is sampled and the response port is idle (R13, R74). -/
def beginCycle (c : CycleInput.At w) (s : State.At w) : State.At w := { s with now := c.now, response := none }

/-- The host command of the cycle, if any: the decoded command, or the ILLEGAL response (R75, R76; log 7). `run` executes
an instruction, here and below. -/
def takeCommand (run : Instr → State.At w → OutcomeAt w) (c : CycleInput.At w) (s : State.At w) : OutcomeAt w :=
  match c.command with
  | none => .next s
  | some word =>
    match decodeCommand word with
    | .ok i => run i s
    | .error _ => .next (respondIllegal s)

/-- One event of the cycle, if any. -/
def takeEvent (run : Instr → State.At w → OutcomeAt w) (i : Option Instr) (s : State.At w) : OutcomeAt w :=
  match i with
  | none => .next s
  | some j => run j s

/-- A cycle without RST: the host command, then the QSAMPLE, then the BEDGE (R53). The front ends compare with
the levels the cycle began with, and latch the new ones. -/
def runCycle (run : Instr → State.At w → OutcomeAt w) (c : CycleInput.At w) (s : State.At w) : OutcomeAt w :=
  let words := presentedWords c s
  andThen (takeCommand run c (beginCycle c s)) fun s1 =>
    andThen (takeEvent run (sampleOf words) s1) fun s2 =>
      andThen (takeEvent run (edgeOf words) s2) fun s3 => .next (latchLevels c s3)

/-- One clock cycle with the inputs `c`. -/
def clockCycle (run : Instr → State.At w → OutcomeAt w) (c : CycleInput.At w) (s : State.At w) : OutcomeAt w :=
  if c.rst then .next (resetCycle c s) else runCycle run c s

/-- A cycle in which nothing but `cmd` and the event words `ws` is presented and no pin changes. -/
def quietInput (s : State.At w) (cmd : Option CommandWord) (ws : List EventWord) : CycleInput.At w where
  rst := false
  hasButton := s.hasButton
  command := cmd
  qa := s.qaPrev
  qb := s.qbPrev
  btnIn := s.btnPrev
  events := some ws
  now := s.now

/-- The word of a table row as the only transaction of the next cycle. An event word also needs the capture cycle
to be over (log 6). -/
def placeWord (s : State.At w) (nbits word : Nat) : State.At w :=
  if nbits ≤ 8 then
    { s with capture := false, stimulus := quietInput s none [BitVec.ofNat 8 word] :: s.stimulus }
  else
    { s with stimulus := quietInput s (some (BitVec.ofNat 32 word)) [] :: s.stimulus }

end Sys2Proof.Machine
end

