-- ==== Sys2Proof/Machine/ButtonEdge.lean ====
section
/-! DEFINITION. BEDGE (spec/41_button.md rules R131 to R137). -/

namespace Sys2Proof.Machine

variable {w : Nat}

/-- The edge is accepted: the button is enabled and the debounce window has passed (R131, R132). -/
def edgeAccepted (s : State.At w) : Bool := s.hasButton && !insideDebounce s.now s.debounceTs

/-- Press branch (R134). -/
def pressEdge (s : State.At w) : State.At w := raiseFlag .pressed (putBtn .pressed s)

/-- Release branch (R133): the gap is taken against the LAST_CLICK before this edge. -/
def releaseEdge (s : State.At w) : State.At w :=
  let clicked := raiseFlag .clicked (putBtn .released s)
  putLastClick s.now
    (if insideDoubleClick s.now s.lastClick then raiseFlag .doubleClicked clicked else clicked)

/-- An accepted edge: BTN alone tells a release from a press (R132, R137). -/
def acceptEdge (s : State.At w) : State.At w :=
  let stamped := putDebounceTs s.now s
  match s.btn with
  | .pressed => releaseEdge stamped
  | .released => pressEdge stamped

/-- BEDGE (R132). A disabled or discarded edge changes nothing (R131, R135). -/
def execBedge (s : State.At w) : OutcomeAt w :=
  if edgeAccepted s then .next (acceptEdge s) else .next s

end Sys2Proof.Machine
end

