-- ==== Sys2Proof/Machine/HostAccess.lean ====
section
/-! DEFINITION. The eight host commands (spec/42_host_access.md rules R160 to R167). -/

namespace Sys2Proof.Machine

variable {w : Nat}

/-- The four flag reads follow one pattern: return the flag and, with clear, clear that one bit (R163 to R166). -/
def readFlagCommand (f : Flag) (clr : Bool) (s : State.At w) : State.At w :=
  respond (boolData (readFlag f s.flags)) false (if clr then dropFlag f s else s)

/-- GET_COUNT (R160). -/
def execGetCount (s : State.At w) : OutcomeAt w :=
  .next (respond s.position false s)

/-- SET_COUNT v (R161). -/
def execSetCount (v : Half) (s : State.At w) : OutcomeAt w :=
  .next (respond 0 false (putPosition v s))

/-- GET_DIFF (R162). -/
def execGetDiff (clr : Bool) (s : State.At w) : OutcomeAt w :=
  .next (respond s.delta false (if clr then putDelta 0 s else s))

/-- IS_MOVED (R163). -/
def execIsMoved (clr : Bool) (s : State.At w) : OutcomeAt w :=
  .next (readFlagCommand .moved clr s)

/-- IS_PRESSED (R164). -/
def execIsPressed (clr : Bool) (s : State.At w) : OutcomeAt w :=
  .next (readFlagCommand .pressed clr s)

/-- IS_CLICKED (R165). -/
def execIsClicked (clr : Bool) (s : State.At w) : OutcomeAt w :=
  .next (readFlagCommand .clicked clr s)

/-- IS_DOUBLE_CLICKED (R166). -/
def execIsDoubleClicked (clr : Bool) (s : State.At w) : OutcomeAt w :=
  .next (readFlagCommand .doubleClicked clr s)

/-- CLEAR (R167). -/
def execClear (s : State.At w) : OutcomeAt w :=
  .next (respond 0 false (putFlags clearedFlags s))

end Sys2Proof.Machine
end

