-- ==== Sys2Proof/Machine/Quadrature.lean ====
section
/-! DEFINITION. QSAMPLE (spec/40_quadrature.md rules R102 to R106). -/

namespace Sys2Proof.Machine

variable {w : Nat}

/-- The two directions of rotation. -/
inductive Turn where
  | cw
  | ccw
  deriving DecidableEq, Repr

/-- `(HIST << 2) | sym`, modulo 2^8 (R102, R103). -/
def shiftHist (h : BitVec 8) (sym : BitVec 2) : BitVec 8 := (h <<< 2) ||| sym.setWidth 8

/-- The pattern a history equals, if any (R103). -/
def matchTurn (h : BitVec 8) : Option Turn :=
  if h = Config.patCw then some .cw
  else if h = Config.patCcw then some .ccw
  else none

/-- One indent of a counter, modulo 2^16 (R22, R103, R106). -/
def countTurn : Turn → Half → Half
  | .cw, v => v + 1
  | .ccw, v => v - 1

/-- A recognized indent: POSITION and DELTA move alike and Moved is set (R103). -/
def applyTurn (t : Turn) (s : State.At w) : State.At w :=
  raiseFlag .moved (putDelta (countTurn t s.delta) (putPosition (countTurn t s.position) s))

/-- QSAMPLE sym (R103): the history after the shift decides. -/
def execQsample (sym : BitVec 2) (s : State.At w) : OutcomeAt w :=
  let shifted := putHist (shiftHist s.hist sym) s
  match matchTurn shifted.hist with
  | some t => .next (applyTurn t shifted)
  | none => .next shifted

end Sys2Proof.Machine
end

