-- ==== Sys2Proof/Machine/Dispatch.lean ====
section
/-! DEFINITION. One arm per instruction. -/

namespace Sys2Proof.Machine

def exec (i : Instr) (s : State) : Host.Outcome State Fault Refusal :=
  match i with
  | .getCount => Sys2Proof.Machine.execGetCount s
  | .setCount v => Sys2Proof.Machine.execSetCount v s
  | .getDiff clr => Sys2Proof.Machine.execGetDiff clr s
  | .isMoved clr => Sys2Proof.Machine.execIsMoved clr s
  | .isPressed clr => Sys2Proof.Machine.execIsPressed clr s
  | .isClicked clr => Sys2Proof.Machine.execIsClicked clr s
  | .isDoubleClicked clr => Sys2Proof.Machine.execIsDoubleClicked clr s
  | .clear => Sys2Proof.Machine.execClear s
  | .qsample sym => Sys2Proof.Machine.execQsample sym s
  | .bedge => Sys2Proof.Machine.execBedge s

end Sys2Proof.Machine
end

