-- ==== Sys2Proof/Machine/Step.lean ====
section
/-! DEFINITION. The step: one clock cycle (R250, log 1). -/

namespace Sys2Proof.Machine

/-- One clock cycle with the next inputs. -/
def step (s : State) : Host.Outcome State Fault Refusal := clockCycle exec (nextInput s) (takeInput s)

/-- `s` with the word of a table row presented alone in the next cycle. -/
def State.withFetchWord (s : State) (nbits w : Nat) : State := placeWord s nbits w

end Sys2Proof.Machine
end

