-- ==== Sys2Proof/Machine/AnyWidth.lean ====
section
/-! DEFINITION. The same machine for every `TS_W` (spec/00_scope.md rule R10; spec/93_implementation_defined.md I3): the
meanings and the clock cycle of the other files, at width w. `exec`, `step` and `core` are those of this hardware. -/

namespace Sys2Proof.Machine

variable {w : Nat}

/-- `exec` for every `TS_W`: the same meanings. -/
def execAt (i : Instr) (s : State.At w) : OutcomeAt w :=
  match i with
  | .getCount => execGetCount s
  | .setCount v => execSetCount v s
  | .getDiff clr => execGetDiff clr s
  | .isMoved clr => execIsMoved clr s
  | .isPressed clr => execIsPressed clr s
  | .isClicked clr => execIsClicked clr s
  | .isDoubleClicked clr => execIsDoubleClicked clr s
  | .clear => execClear s
  | .qsample sym => execQsample sym s
  | .bedge => execBedge s

/-- `step` for every `TS_W`. -/
def stepAt (s : State.At w) : OutcomeAt w := clockCycle execAt (nextInput s) (takeInput s)

/-- The block with `TS_W` = w, for the widths a model admits (R10). -/
def coreAt (w : Nat) (_admitted : Config.admitsWidth w = true) : Host.Core :=
  { State := State.At w, Fault := Fault, Refusal := Refusal, step := stepAt, reset := State.resetAt w }

end Sys2Proof.Machine
end

