-- ==== Sys2Proof/Machine/Assembler.lean ====
section
/-! DEFINITION. The source forms of spec/30_encoding.md section 3 and what they stand for: assembler lines (rule R83), stimulus
lines (rule R84) and API calls (rule R85), from their characters to words and cycle inputs. Details of spelling that
the rules leave open are in log 17. -/

namespace Sys2Proof.Machine

/-! ## Assembler lines (R83) -/

/-- The spelling of a mnemonic (R83). -/
def mnemonicText : Mnemonic → String
  | .getCount => "GET_COUNT"
  | .setCount => "SET_COUNT"
  | .getDiff => "GET_DIFF"
  | .isMoved => "IS_MOVED"
  | .isPressed => "IS_PRESSED"
  | .isClicked => "IS_CLICKED"
  | .isDoubleClicked => "IS_DOUBLE_CLICKED"
  | .clear => "CLEAR"

/-- Every mnemonic. -/
def allMnemonics : List Mnemonic :=
  [.getCount, .setCount, .getDiff, .isMoved, .isPressed, .isClicked, .isDoubleClicked, .clear]

/-- The 16 bits of SET_COUNT's operand, `v[15:0]` (R83). -/
def literalBits : Literal → Half
  | .dec v => BitVec.ofInt 16 v
  | .hex v => BitVec.ofNat 16 v

/-- The instruction of a line; a missing `.PEEK` means clear-on-read (R83). Lines the assembler refuses give none. -/
def assemble (l : AsmLine) : Option Instr :=
  if l.wellFormed then
    match l.mnemonic with
    | .getCount => some .getCount
    | .setCount => l.operand.map fun v => .setCount (literalBits v)
    | .getDiff => some (.getDiff (!l.peek))
    | .isMoved => some (.isMoved (!l.peek))
    | .isPressed => some (.isPressed (!l.peek))
    | .isClicked => some (.isClicked (!l.peek))
    | .isDoubleClicked => some (.isDoubleClicked (!l.peek))
    | .clear => some .clear
  else none

/-! ## Characters -/

/-- Without the spaces around it. -/
def trimSpaces (l : List Char) : List Char :=
  ((l.dropWhile (· = ' ')).reverse.dropWhile (· = ' ')).reverse

/-- Cut at every `sep`. -/
def cutAt (sep : Char) (l : List Char) : List (List Char) :=
  l.foldr (fun ch acc =>
    if ch = sep then [] :: acc
    else match acc with
      | [] => [[ch]]
      | p :: ps => (ch :: p) :: ps) [[]]

/-- Cut at the first `sep`; the second part is empty where there is none. -/
def cutOnce (sep : Char) (l : List Char) : List Char × List Char :=
  (l.takeWhile (· ≠ sep), (l.dropWhile (· ≠ sep)).drop 1)

/-- The value of a decimal digit. -/
def decDigit (ch : Char) : Option Nat :=
  if '0' ≤ ch ∧ ch ≤ '9' then some (ch.toNat - 48) else none

/-- The value of a hexadecimal digit. -/
def hexDigit (ch : Char) : Option Nat :=
  if 'A' ≤ ch ∧ ch ≤ 'F' then some (ch.toNat - 55)
  else if 'a' ≤ ch ∧ ch ≤ 'f' then some (ch.toNat - 87)
  else decDigit ch

/-- A number of at least one digit. -/
def readDigits (base : Nat) (digit : Char → Option Nat) (l : List Char) : Option Nat :=
  if l = [] then none
  else l.foldl (fun acc ch => acc.bind fun a => (digit ch).map fun d => base * a + d) (some 0)

/-- `0x` and hexadecimal digits, or a decimal integer with an optional minus sign (R83). -/
def readLiteral (l : List Char) : Option Literal :=
  match l with
  | '0' :: 'x' :: rest => (readDigits 16 hexDigit rest).map .hex
  | '-' :: rest => (readDigits 10 decDigit rest).map fun n => .dec (-(n : Int))
  | _ => (readDigits 10 decDigit l).map fun n => .dec (n : Int)

/-- A decimal number whose digits may be grouped by commas (95_test_vectors.md, conventions). -/
def readTime (l : List Char) : Option Nat := readDigits 10 decDigit (l.filter (· ≠ ','))

/-- The mnemonic a token spells, and whether `.PEEK` qualifies it. -/
def readMnemonic (tok : List Char) : Option (Mnemonic × Bool) :=
  allMnemonics.findSome? fun m =>
    if tok = (mnemonicText m).toList then some (m, false)
    else if tok = (mnemonicText m).toList ++ ".PEEK".toList then some (m, true)
    else none

/-- The `#v` of a line, if anything follows the mnemonic. -/
def readOperand (l : List Char) : Option (Option Literal) :=
  match l with
  | [] => some none
  | '#' :: rest => (readLiteral rest).map some
  | _ => none

/-- One assembler line (R83). -/
def readLine (l : List Char) : Option AsmLine :=
  let parts := cutOnce ' ' (trimSpaces l)
  (readMnemonic parts.1).bind fun mp =>
    (readOperand (trimSpaces parts.2)).map fun v => ⟨mp.1, mp.2, v⟩

/-- The instruction of an assembler line's characters; none where the assembler refuses it (R83). -/
def assembleText (line : String) : Option Instr := (readLine line.toList).bind assemble

/-! ## API calls (R85) -/

/-- A read with an optional `clearOnRead`, whose default is true (R85). -/
def readAccessor (m : Mnemonic) (clearOnRead : Option Bool) : AsmLine :=
  ⟨m, !(clearOnRead.getD true), none⟩

/-- The expansion of an API call; NOP is GET_COUNT with the response discarded (R85). -/
def expandCall : ApiCall → AsmLine
  | .getCount => ⟨.getCount, false, none⟩
  | .setCount v => ⟨.setCount, false, some v⟩
  | .getDiff c => readAccessor .getDiff c
  | .isMoved c => readAccessor .isMoved c
  | .isPressed c => readAccessor .isPressed c
  | .isClicked c => readAccessor .isClicked c
  | .isDoubleClicked c => readAccessor .isDoubleClicked c
  | .clear => ⟨.clear, false, none⟩
  | .nop => ⟨.getCount, false, none⟩

/-- An optional boolean argument. -/
def readFlagArg (l : List Char) : Option (Option Bool) :=
  if l = [] then some none
  else if l = "true".toList then some (some true)
  else if l = "false".toList then some (some false)
  else none

/-- `f` where the argument list is empty. -/
def noArg (l : List Char) (f : ApiCall) : Option ApiCall := if l = [] then some f else none

/-- A call by its name and its argument's characters. -/
def readCallParts (name arg : List Char) : Option ApiCall :=
  if name = "getCount".toList then noArg arg .getCount
  else if name = "setCount".toList then (readLiteral arg).map .setCount
  else if name = "getDiff".toList then (readFlagArg arg).map .getDiff
  else if name = "isMoved".toList then (readFlagArg arg).map .isMoved
  else if name = "isPressed".toList then (readFlagArg arg).map .isPressed
  else if name = "isClicked".toList then (readFlagArg arg).map .isClicked
  else if name = "isDoubleClicked".toList then (readFlagArg arg).map .isDoubleClicked
  else if name = "clear".toList then noArg arg .clear
  else none

/-- One API call, or `NOP` (R85). -/
def readCall (line : String) : Option ApiCall :=
  let l := trimSpaces line.toList
  if l = "NOP".toList then some .nop
  else if l.getLast? = some ')' then
    let parts := cutOnce '(' l.dropLast
    readCallParts parts.1 (trimSpaces parts.2)
  else none

/-! ## Stimulus lines (R84) -/

/-- One binary digit. -/
def readBit (ch : Char) : Option Bool :=
  if ch = '0' then some false else if ch = '1' then some true else none

/-- The two digits of `QSAMPLE ab`. -/
def readSample (l : List Char) : Option StimItem :=
  match l with
  | [a, b] => (readBit a).bind fun x => (readBit b).map fun y => .qsample x y
  | _ => none

/-- The time of `BEDGE @t`. -/
def readEdge (l : List Char) : Option StimItem :=
  match l with
  | '@' :: rest => (readTime rest).map .bedge
  | _ => none

/-- One transaction of a stimulus: an event, a word in hexadecimal, or an assembler line (R84). -/
def readItem (l : List Char) : Option StimItem :=
  let t := trimSpaces l
  let parts := cutOnce ' ' t
  let rest := trimSpaces parts.2
  if parts.1 = "QSAMPLE".toList then readSample rest
  else if parts.1 = "BEDGE".toList then readEdge rest
  else match t with
    | '0' :: 'x' :: digits => (readDigits 16 hexDigit digits).map .word
    | _ => (readLine t).map .command

/-- Every item, or none where one does not read. -/
def readItems : List (List Char) → Option (List StimItem)
  | [] => some []
  | l :: ls => (readItem l).bind fun i => (readItems ls).map fun is => i :: is

/-- The transactions of one line: a single one, or those of `CYCLE` between its braces, separated by semicolons (R84).
The braces are the characters 123 and 125. -/
def readCycle (line : String) : Option (List StimItem) :=
  let l := trimSpaces line.toList
  let parts := cutOnce (Char.ofNat 123) l
  if trimSpaces parts.1 = "CYCLE".toList ∧ l.getLast? = some (Char.ofNat 125) then
    readItems (cutAt ';' parts.2.dropLast)
  else readItems [l]

/-- The command word of an item, if it is one. -/
def itemCommand : StimItem → Option CommandWord
  | .command l =>
    match assemble l with
    | some i =>
      match encode i with
      | .host w => some w
      | .event _ => none
    | none => none
  | .word w => some (BitVec.ofNat 32 w)
  | .qsample _ _ => none
  | .bedge _ => none

/-- The event word of an item, if it is one (R84). -/
def itemEvent : StimItem → Option EventWord
  | .qsample a b => some (sampleWord a b)
  | .bedge _ => some edgeWord
  | .command _ => none
  | .word _ => none

/-- The time of a BEDGE item. -/
def itemTime (w : Nat) : StimItem → Option (BitVec w)
  | .bedge t => some (BitVec.ofNat w t)
  | .command _ => none
  | .word _ => none
  | .qsample _ _ => none

/-- The inputs of the cycle a line's items stand for, with no pin changing; none where they are not legal. The
written order of the items does not matter (R84). -/
def cycleOfItems {w : Nat} (s : State.At w) (items : List StimItem) : Option (CycleInput.At w) :=
  if cycleItemsWellFormed w items then
    some { quietInput s (items.findSome? itemCommand) (items.filterMap itemEvent) with
      now := (items.findSome? (itemTime w)).getD s.now }
  else none

/-- `s` with the cycle of a stimulus line next. -/
def presentLine {w : Nat} (s : State.At w) (line : String) : Option (State.At w) :=
  ((readCycle line).bind (cycleOfItems s)).map fun c => { s with stimulus := c :: s.stimulus }

end Sys2Proof.Machine
end

