-- ==== Sys2Proof/Safety.lean ====
section
/-! DEFINITION. The terms claims use: the invariant of the reachable states, the ledger of rule R56, what a cycle takes,
and the stimuli a model may refuse (spec/93_implementation_defined.md I1, I2). -/

namespace Sys2Proof.Machine

/-- With the button disabled nothing of the button's state leaves its reset value (R131, R164 to R166). -/
def ButtonAtRest (s : State) : Prop :=
  s.btn = .released ∧ s.debounceTs = 0 ∧ s.lastClick = 0 ∧ readFlag .pressed s.flags = false ∧
    readFlag .clicked s.flags = false ∧ readFlag .doubleClicked s.flags = false

/-- The invariant of the states a run reaches: a disabled button is at rest; while BTN is Released the two
timestamps are those of the last accepted release, so they are equal; an ERR response carries no data. -/
structure Inv (s : State) : Prop where
  disabled_at_rest : s.hasButton = false → ButtonAtRest s
  released_stamps : s.btn = .released → s.debounceTs = s.lastClick
  err_without_data : ∀ r, s.response = some r → r.err = true → r.rdata = 0

/-- The event words of the next cycle (R79, R231). -/
def nextWords (s : State) : List EventWord := presentedWords (nextInput s) (takeInput s)

/-- The QSAMPLE the next cycle takes. -/
def nextSample (s : State) : Option Instr :=
  if (nextInput s).rst then none else sampleOf (nextWords s)

/-- The BEDGE the next cycle takes. -/
def nextEdge (s : State) : Option Instr :=
  if (nextInput s).rst then none else edgeOf (nextWords s)

/-- The host command the next cycle takes, if it takes a defined one. -/
def nextCommand (s : State) : Option Instr :=
  if (nextInput s).rst then none
  else (nextInput s).command.bind fun w => (decodeCommand w).toOption

/-- The sums of rule R56, since the last reset: what clearing GET_DIFFs returned, modulo 2^16, and the numbers of
QSAMPLEs that matched each pattern. -/
structure Ledger where
  returned : Half
  cw : Nat
  ccw : Nat
  deriving DecidableEq, Repr

/-- Nothing since reset. -/
def Ledger.start : Ledger := ⟨0, 0, 0⟩

/-- The ledger after the cycle that leads from `s` to `t`, read from what HOST and the inputs show of it. -/
def Ledger.account (l : Ledger) (s t : State) : Ledger :=
  if (nextInput s).rst then Ledger.start
  else
    { returned :=
        if nextCommand s = some (.getDiff true) then
          l.returned + ((t.response.map Response.rdata).getD 0)
        else l.returned
      cw := if (nextSample s).isSome && t.hist == Config.patCw then l.cw + 1 else l.cw
      ccw := if (nextSample s).isSome && t.hist == Config.patCcw then l.ccw + 1 else l.ccw }

/-- `S + DELTA = N_cw - N_ccw` modulo 2^16 (R56). -/
def Ledger.Balanced (l : Ledger) (s : State) : Prop :=
  l.returned + s.delta = BitVec.ofNat 16 l.cw - BitVec.ofNat 16 l.ccw

/-- k cycles with their ledger. -/
def runLedger : Nat → State → Ledger → Option (State × Ledger)
  | 0, s, l => some (s, l)
  | k + 1, s, l =>
    match step s with
    | .next t => runLedger k t (l.account s t)
    | .fault _ => none
    | .refused _ => none

/-- Instructions one after another, as separate transactions. -/
def runInstrs : List Instr → State → Host.Outcome State Fault Refusal
  | [], s => .next s
  | i :: is, s => andThen (exec i s) (runInstrs is)

/-- BEDGEs one after another, each with its own `now`. -/
def runEdges : List Timestamp → State → Host.Outcome State Fault Refusal
  | [], s => .next s
  | t :: ts, s => andThen (exec .bedge { s with now := t }) (runEdges ts)

/-- How many of the BEDGEs of `runEdges` are accepted (R148). -/
def acceptedEdges : List Timestamp → State → Nat
  | [], _ => 0
  | t :: ts, s =>
    match exec .bedge { s with now := t } with
    | .next u => (if edgeAccepted { s with now := t } then 1 else 0) + acceptedEdges ts u
    | .fault _ => 0
    | .refused _ => 0

/-- BTN inverted (R29, R137). -/
def otherButton : Button → Button
  | .released => .pressed
  | .pressed => .released

/-- `s` about to run a cycle in which exactly `cmd` and the event words `ws` are presented, at time `t`, and no pin
changes (`CYCLE`, R84). -/
def presenting (s : State) (cmd : Option CommandWord) (ws : List EventWord) (t : Timestamp) : State :=
  { s with capture := false, stimulus := { quietInput s cmd ws with now := t } :: s.stimulus }

/-- The reset state once the capture cycle is over: where an event-level stimulus starts (log 6). -/
def afterCapture : State := { State.reset with capture := false }

/-- The command that clears a flag: IS_x with clear of that flag, or CLEAR (R25). -/
def clearsFlag (f : Flag) : Instr → Bool
  | .isMoved clr => clr && f == .moved
  | .isPressed clr => clr && f == .pressed
  | .isClicked clr => clr && f == .clicked
  | .isDoubleClicked clr => clr && f == .doubleClicked
  | .clear => true
  | .getCount | .setCount _ | .getDiff _ | .qsample _ | .bedge => false

/-- The inputs lie in the domain of I1 and I2: no ILLEGAL command word and no ILLEGAL_EVENT, and at most one event of
each kind (R53). The machine answers outside that domain too (logs 7, 8 and 11). -/
def inDomain (c : CycleInput) : Bool :=
  (match c.command with
    | none => true
    | some w => (decodeCommand w).toOption.isSome) &&
  (match c.events with
    | none => true
    | some ws =>
      ws.all (fun e => (decodeEvent e).toOption.isSome) &&
        decide ((ws.filterMap asSample).length ≤ 1) && decide ((ws.filterMap asEdge).length ≤ 1))

end Sys2Proof.Machine
end

