-- ==== Sys2Proof/Certificates/Slice0/Obligations.lean ====
section
/-! DEFINITION. What is stated about the model. Each docstring names the rule of spec/ it formalises; "derived" marks a
consequence, or a point on which the model or the spec itself chose. -/

open Sys2Proof Sys2Proof.Machine

/-! ## Encoding -/

/-- Words written out from R72 and R80 decode to their instructions (derived: the encodings are D3 and D4). -/
def Obligations.DecodeReadsWrittenWords : Prop :=
  decode (.host 0x00000000#32) = .ok .getCount ∧ decode (.host 0x1000FFFB#32) = .ok (.setCount 0xFFFB#16) ∧
  decode (.host 0x20010000#32) = .ok (.getDiff false) ∧ decode (.host 0x30000000#32) = .ok (.isMoved true) ∧
  decode (.host 0x60000000#32) = .ok (.isDoubleClicked true) ∧ decode (.host 0x70000000#32) = .ok .clear ∧
  decode (.event 0x02#8) = .ok (.qsample 0b10#2) ∧ decode (.event 0x40#8) = .ok .bedge ∧
  decode (.host 0x30000001#32) = .error .illegalCommand ∧ decode (.event 0x41#8) = .error .illegalEvent

/-- R72: every row of the OP map, as match and mask. -/
def Obligations.CommandWordsFollowOpMap : Prop :=
  ∀ w : CommandWord,
    (decodeCommand w = .ok .getCount ↔ w &&& 0xFFFFFFFF#32 = 0x00000000#32) ∧
    (∀ v, decodeCommand w = .ok (.setCount v) ↔ w &&& 0xFFFF0000#32 = 0x10000000#32 ∧ w.setWidth 16 = v) ∧
    (∀ clr, decodeCommand w = .ok (.getDiff clr) ↔
      w &&& 0xFFFEFFFF#32 = 0x20000000#32 ∧ clr = !w.getLsbD 16) ∧
    (∀ clr, decodeCommand w = .ok (.isMoved clr) ↔
      w &&& 0xFFFEFFFF#32 = 0x30000000#32 ∧ clr = !w.getLsbD 16) ∧
    (∀ clr, decodeCommand w = .ok (.isPressed clr) ↔
      w &&& 0xFFFEFFFF#32 = 0x40000000#32 ∧ clr = !w.getLsbD 16) ∧
    (∀ clr, decodeCommand w = .ok (.isClicked clr) ↔
      w &&& 0xFFFEFFFF#32 = 0x50000000#32 ∧ clr = !w.getLsbD 16) ∧
    (∀ clr, decodeCommand w = .ok (.isDoubleClicked clr) ↔
      w &&& 0xFFFEFFFF#32 = 0x60000000#32 ∧ clr = !w.getLsbD 16) ∧
    (decodeCommand w = .ok .clear ↔ w &&& 0xFFFFFFFF#32 = 0x70000000#32) ∧
    (8 ≤ w.toNat / 2 ^ 28 → decodeCommand w = .error .illegalCommand)

/-- R75: decode_H with its fields read from the word as a number. -/
def Obligations.CommandDecoderFollowsPseudocode : Prop :=
  ∀ w : CommandWord,
    let op := w.toNat / 2 ^ 28
    let rsv := w.toNat / 2 ^ 17 % 2 ^ 11
    let peek := w.toNat / 2 ^ 16 % 2
    let data := w.toNat % 2 ^ 16
    let clr := decide (peek = 0)
    let ifOk (p : Prop) [Decidable p] (i : Instr) : Except Reject Instr :=
      if p then .ok i else .error .illegalCommand
    decodeCommand w =
      if rsv ≠ 0 then .error .illegalCommand
      else if op = 0 then ifOk (peek = 0 ∧ data = 0) .getCount
      else if op = 1 then ifOk (peek = 0) (.setCount (BitVec.ofNat 16 data))
      else if op = 2 then ifOk (data = 0) (.getDiff clr)
      else if op = 3 then ifOk (data = 0) (.isMoved clr)
      else if op = 4 then ifOk (data = 0) (.isPressed clr)
      else if op = 5 then ifOk (data = 0) (.isClicked clr)
      else if op = 6 then ifOk (data = 0) (.isDoubleClicked clr)
      else if op = 7 then ifOk (peek = 0 ∧ data = 0) .clear
      else .error .illegalCommand

/-- R81: decode_E, by match and mask of R80, and ILLEGAL_EVENT for the rest. -/
def Obligations.EventDecoderFollowsPseudocode : Prop :=
  ∀ e : EventWord,
    (∀ sym, decodeEvent e = .ok (.qsample sym) ↔ e &&& 0xFC#8 = 0x00#8 ∧ e.setWidth 2 = sym) ∧
    (decodeEvent e = .ok .bedge ↔ e = 0x40#8) ∧
    (decodeEvent e = .error .illegalEvent ↔ e &&& 0xFC#8 ≠ 0x00#8 ∧ e ≠ 0x40#8)

/-- Decoder and encoder are inverse on all words and all instructions, every operand at every value (derived). -/
def Obligations.DecodingInvertsEncoding : Prop :=
  ∀ (p : PortWord) (i : Instr), decode p = .ok i ↔ encode i = p

/-- HOST cannot present events (derived from section 5 of 60_exceptions): no command word is an event. -/
def Obligations.HostCannotPresentEvents : Prop :=
  ∀ (w : CommandWord) (i : Instr), decodeCommand w = .ok i → i ≠ .bedge ∧ ∀ sym, i ≠ .qsample sym

/-- R83: what the assembler makes of each line, and which lines it refuses. -/
def Obligations.AssemblerFollowsSyntaxTable : Prop :=
  (["GET_COUNT", "GET_DIFF", "GET_DIFF.PEEK", "IS_MOVED", "IS_MOVED.PEEK", "IS_PRESSED", "IS_PRESSED.PEEK",
      "IS_CLICKED", "IS_CLICKED.PEEK", "IS_DOUBLE_CLICKED", "IS_DOUBLE_CLICKED.PEEK", "CLEAR"].map
        fun l => (assembleText l).map encode) =
    [0x00000000#32, 0x20000000#32, 0x20010000#32, 0x30000000#32, 0x30010000#32, 0x40000000#32, 0x40010000#32,
      0x50000000#32, 0x50010000#32, 0x60000000#32, 0x60010000#32, 0x70000000#32].map (fun w => some (.host w)) ∧
  (∀ v : Int, -32768 ≤ v ∧ v ≤ 32767 →
    (assemble ⟨.setCount, false, some (.dec v)⟩).map encode =
      some (.host (0x10000000#32 ||| (BitVec.ofInt 16 v).setWidth 32))) ∧
  (∀ v : Int, ¬(-32768 ≤ v ∧ v ≤ 32767) → assemble ⟨.setCount, false, some (.dec v)⟩ = none) ∧
  (∀ v : Nat, v ≤ 0xFFFF →
    (assemble ⟨.setCount, false, some (.hex v)⟩).map encode =
      some (.host (0x10000000#32 ||| (BitVec.ofNat 16 v).setWidth 32))) ∧
  (∀ v : Nat, 0xFFFF < v → assemble ⟨.setCount, false, some (.hex v)⟩ = none) ∧
  (∀ v, assemble ⟨.getCount, true, v⟩ = none ∧ assemble ⟨.setCount, true, v⟩ = none ∧
    assemble ⟨.clear, true, v⟩ = none)

/-- R85: each API call and its expansion; an absent argument means true. -/
def Obligations.ApiCallsExpandToCommands : Prop :=
  assemble (expandCall .getCount) = some .getCount ∧
  (∀ v : Int, -32768 ≤ v ∧ v ≤ 32767 →
    assemble (expandCall (.setCount (.dec v))) = some (.setCount (BitVec.ofInt 16 v))) ∧
  (∀ v : Nat, v ≤ 0xFFFF → assemble (expandCall (.setCount (.hex v))) = some (.setCount (BitVec.ofNat 16 v))) ∧
  (∀ c : Option Bool,
    assemble (expandCall (.getDiff c)) = some (.getDiff (c.getD true)) ∧
    assemble (expandCall (.isMoved c)) = some (.isMoved (c.getD true)) ∧
    assemble (expandCall (.isPressed c)) = some (.isPressed (c.getD true)) ∧
    assemble (expandCall (.isClicked c)) = some (.isClicked (c.getD true)) ∧
    assemble (expandCall (.isDoubleClicked c)) = some (.isDoubleClicked (c.getD true))) ∧
  assemble (expandCall .clear) = some .clear ∧ assemble (expandCall .nop) = some .getCount

/-! ## Reset -/

/-- R33: the reset table. The previous levels are those of the first cycle after reset, and no event comes of it. -/
def Obligations.ResetLeavesTableValues : Prop :=
  State.reset.position = 0x0000#16 ∧ State.reset.delta = 0x0000#16 ∧ State.reset.hist = 0x00#8 ∧
  State.reset.flags = 0b0000#4 ∧ State.reset.btn = .released ∧ State.reset.debounceTs = 0 ∧
  State.reset.lastClick = 0 ∧
  ∀ (c : CycleInput) (cs : List CycleInput), c.rst = false → c.command = none →
    ∃ t, step { State.reset with stimulus := c :: cs } = .next t ∧ t.position = 0x0000#16 ∧ t.delta = 0x0000#16 ∧
      t.hist = 0x00#8 ∧ t.flags = 0b0000#4 ∧ t.btn = .released ∧ t.debounceTs = 0 ∧ t.lastClick = 0 ∧
      t.qaPrev = c.qa ∧ t.qbPrev = c.qb ∧ t.btnPrev = c.btnIn

/-- R230, R231: a cycle with RST asserted, and the capture cycle. The levels held in the former are the model's
choice until the capture cycle overwrites them (log 3), so the statement leaves them out. -/
def Obligations.RstRestoresAndCaptureTakesNoEvent : Prop :=
  ∀ s : State,
    ((nextInput s).rst = true → ∃ t, step s = .next t ∧
      t.position = 0 ∧ t.delta = 0 ∧ t.hist = 0 ∧ t.flags = 0 ∧ t.btn = .released ∧ t.debounceTs = 0 ∧
      t.lastClick = 0 ∧ t.capture = true ∧ t.response = none) ∧
    ((nextInput s).rst = false → s.capture = true →
      ((nextInput s).command = none → ∃ t, step s = .next t ∧
        t.position = s.position ∧ t.delta = s.delta ∧ t.hist = s.hist ∧ t.flags = s.flags ∧ t.btn = s.btn ∧
        t.debounceTs = s.debounceTs ∧ t.lastClick = s.lastClick ∧ t.capture = false) ∧
      (∀ w i, (nextInput s).command = some w → decodeCommand w = .ok i →
        step s = andThen (exec i { takeInput s with now := (nextInput s).now, response := none }) fun t =>
          .next { t with
            qaPrev := (nextInput s).qa, qbPrev := (nextInput s).qb, btnPrev := (nextInput s).btnIn,
            capture := false }))

/-- HAS_BUTTON is fixed from reset onward (derived: 10_state section 6; that it is held in State and that a cycle with
RST asserted reads it anew are the model's choice, log 4). -/
def Obligations.HasButtonFixedFromReset : Prop :=
  ∀ s t : State, (nextInput s).rst = false → step s = .next t → t.hasButton = s.hasButton

/-! ## Host commands -/

/-- R160: GET_COUNT. -/
def Obligations.GetCountReturnsPosition : Prop :=
  decode (.host 0x00000000#32) = .ok .getCount ∧
  ∀ s : State, exec .getCount s = .next { s with response := some ⟨false, s.position⟩ }

/-- R161: SET_COUNT, alone and with an indent in the same cycle. -/
def Obligations.SetCountOverwritesPosition : Prop :=
  (∀ v : Half, decode (.host (0x10000000#32 ||| v.setWidth 32)) = .ok (.setCount v)) ∧
  (∀ (v : Half) (s : State),
    exec (.setCount v) s = .next { s with position := v, response := some ⟨false, 0x0000#16⟩ }) ∧
  (∀ (v : Half) (s : State) (sym : BitVec 2) (now : Timestamp), s.hist <<< 2 ||| sym.setWidth 8 = 0x4B#8 →
    ∃ t, step (presenting s (some (0x10000000#32 ||| v.setWidth 32)) [sym.setWidth 8] now) = .next t ∧
      t.position = v + 1)

/-- R162: GET_DIFF, alone and with an indent in the same cycle. -/
def Obligations.GetDiffReturnsAndClears : Prop :=
  decode (.host 0x20000000#32) = .ok (.getDiff true) ∧ decode (.host 0x20010000#32) = .ok (.getDiff false) ∧
  (∀ s : State, exec (.getDiff true) s =
    .next { s with delta := 0x0000#16, response := some ⟨false, s.delta⟩ }) ∧
  (∀ s : State, exec (.getDiff false) s = .next { s with response := some ⟨false, s.delta⟩ }) ∧
  (∀ (s : State) (sym : BitVec 2) (now : Timestamp),
    (s.hist <<< 2 ||| sym.setWidth 8 = 0x4B#8 →
      ∃ t, step (presenting s (some 0x20000000#32) [sym.setWidth 8] now) = .next t ∧
        t.response = some ⟨false, s.delta⟩ ∧ t.delta = 1) ∧
    (s.hist <<< 2 ||| sym.setWidth 8 = 0x87#8 →
      ∃ t, step (presenting s (some 0x20000000#32) [sym.setWidth 8] now) = .next t ∧
        t.response = some ⟨false, s.delta⟩ ∧ t.delta = -1))

/-- R163: IS_MOVED, alone and with an indent in the same cycle. -/
def Obligations.IsMovedReturnsAndClears : Prop :=
  decode (.host 0x30000000#32) = .ok (.isMoved true) ∧ decode (.host 0x30010000#32) = .ok (.isMoved false) ∧
  (∀ s : State, exec (.isMoved true) s = .next { s with
    flags := s.flags &&& 0b1110#4, response := some ⟨false, if s.flags.getLsbD 0 then 1 else 0⟩ }) ∧
  (∀ s : State, exec (.isMoved false) s = .next { s with
    response := some ⟨false, if s.flags.getLsbD 0 then 1 else 0⟩ }) ∧
  (∀ (s : State) (sym : BitVec 2) (now : Timestamp),
    s.hist <<< 2 ||| sym.setWidth 8 = 0x4B#8 ∨ s.hist <<< 2 ||| sym.setWidth 8 = 0x87#8 →
    ∃ t, step (presenting s (some 0x30000000#32) [sym.setWidth 8] now) = .next t ∧
      t.response = some ⟨false, if s.flags.getLsbD 0 then 1 else 0⟩ ∧ t.flags.getLsbD 0 = true)

/-- R164: IS_PRESSED, alone, with a press in the same cycle, and with the button disabled. -/
def Obligations.IsPressedReturnsAndClears : Prop :=
  decode (.host 0x40000000#32) = .ok (.isPressed true) ∧ decode (.host 0x40010000#32) = .ok (.isPressed false) ∧
  (∀ s : State, exec (.isPressed true) s = .next { s with
    flags := s.flags &&& 0b1101#4, response := some ⟨false, if s.flags.getLsbD 1 then 1 else 0⟩ }) ∧
  (∀ s : State, exec (.isPressed false) s = .next { s with
    response := some ⟨false, if s.flags.getLsbD 1 then 1 else 0⟩ }) ∧
  (∀ (s : State) (now : Timestamp),
    s.hasButton = true → 10000 ≤ (now - s.debounceTs).toNat → s.btn = .released →
    ∃ t, step (presenting s (some 0x40000000#32) [0x40#8] now) = .next t ∧
      t.response = some ⟨false, if s.flags.getLsbD 1 then 1 else 0⟩ ∧ t.flags.getLsbD 1 = true) ∧
  (∀ (s : State) (clr : Bool), Inv s → s.hasButton = false →
    ∃ t, exec (.isPressed clr) s = .next t ∧ t.response = some ⟨false, 0⟩)

/-- R165: IS_CLICKED, alone, with a release in the same cycle, and with the button disabled. -/
def Obligations.IsClickedReturnsAndClears : Prop :=
  decode (.host 0x50000000#32) = .ok (.isClicked true) ∧ decode (.host 0x50010000#32) = .ok (.isClicked false) ∧
  (∀ s : State, exec (.isClicked true) s = .next { s with
    flags := s.flags &&& 0b1011#4, response := some ⟨false, if s.flags.getLsbD 2 then 1 else 0⟩ }) ∧
  (∀ s : State, exec (.isClicked false) s = .next { s with
    response := some ⟨false, if s.flags.getLsbD 2 then 1 else 0⟩ }) ∧
  (∀ (s : State) (now : Timestamp),
    s.hasButton = true → 10000 ≤ (now - s.debounceTs).toNat → s.btn = .pressed →
    ∃ t, step (presenting s (some 0x50000000#32) [0x40#8] now) = .next t ∧
      t.response = some ⟨false, if s.flags.getLsbD 2 then 1 else 0⟩ ∧ t.flags.getLsbD 2 = true) ∧
  (∀ (s : State) (clr : Bool), Inv s → s.hasButton = false →
    ∃ t, exec (.isClicked clr) s = .next t ∧ t.response = some ⟨false, 0⟩)

/-- R166: IS_DOUBLE_CLICKED, alone, before a third quick release, and with the button disabled. -/
def Obligations.IsDoubleClickedReturnsAndClears : Prop :=
  decode (.host 0x60000000#32) = .ok (.isDoubleClicked true) ∧
  decode (.host 0x60010000#32) = .ok (.isDoubleClicked false) ∧
  (∀ s : State, exec (.isDoubleClicked true) s = .next { s with
    flags := s.flags &&& 0b0111#4, response := some ⟨false, if s.flags.getLsbD 3 then 1 else 0⟩ }) ∧
  (∀ s : State, exec (.isDoubleClicked false) s = .next { s with
    response := some ⟨false, if s.flags.getLsbD 3 then 1 else 0⟩ }) ∧
  (∀ s : State, s.hasButton = true → 10000 ≤ (s.now - s.debounceTs).toNat → s.btn = .pressed →
    (s.now - s.lastClick).toNat ≤ 500000 →
    ∃ t, runInstrs [.isDoubleClicked true, .bedge] s = .next t ∧ t.flags.getLsbD 3 = true) ∧
  (∀ (s : State) (clr : Bool), Inv s → s.hasButton = false →
    ∃ t, exec (.isDoubleClicked clr) s = .next t ∧ t.response = some ⟨false, 0⟩)

/-- R167: CLEAR, alone and with events in the same cycle. -/
def Obligations.ClearDropsAllFlags : Prop :=
  decode (.host 0x70000000#32) = .ok .clear ∧
  (∀ s : State, exec .clear s = .next { s with flags := 0b0000#4, response := some ⟨false, 0x0000#16⟩ }) ∧
  (∀ (s : State) (sym : BitVec 2) (now : Timestamp), s.hist <<< 2 ||| sym.setWidth 8 = 0x4B#8 →
    ∃ t, step (presenting s (some 0x70000000#32) [sym.setWidth 8] now) = .next t ∧ t.flags = 0b0001#4) ∧
  (∀ (s : State) (now : Timestamp), s.hasButton = true → 10000 ≤ (now - s.debounceTs).toNat →
    ∃ t, step (presenting s (some 0x70000000#32) [0x40#8] now) = .next t ∧
      (s.btn = .released → t.flags = 0b0010#4) ∧ (s.btn = .pressed → t.flags.getLsbD 2 = true))

/-- The frame of the eight host commands (derived: the table of 42_host_access section 4). -/
def Obligations.HostCommandsTouchOnlyTheirItem : Prop :=
  ∀ (w : CommandWord) (i : Instr) (s t : State), decodeCommand w = .ok i → exec i s = .next t →
    t.hist = s.hist ∧ t.btn = s.btn ∧ t.debounceTs = s.debounceTs ∧ t.lastClick = s.lastClick ∧
    t.qaPrev = s.qaPrev ∧ t.qbPrev = s.qbPrev ∧ t.btnPrev = s.btnPrev ∧ t.capture = s.capture ∧
    t.hasButton = s.hasButton ∧ t.now = s.now ∧ t.stimulus = s.stimulus ∧ t.draws = s.draws ∧
    (t.position ≠ s.position → ∃ v, i = .setCount v) ∧
    (t.delta ≠ s.delta → i = .getDiff true) ∧
    (∀ f, readFlag f t.flags ≠ readFlag f s.flags → clearsFlag f i = true)

/-- R60: read side effects and idempotency. -/
def Obligations.ReadsAreIdempotent : Prop :=
  (∀ i ∈ [Instr.getDiff true, .isMoved true, .isPressed true, .isClicked true, .isDoubleClicked true],
    ∀ s : State, ∃ t, runInstrs [i, i] s = .next t ∧ t.response = some ⟨false, 0⟩) ∧
  (∀ i ∈ [Instr.getCount, .getDiff false, .isMoved false, .isPressed false, .isClicked false, .isDoubleClicked false],
    ∀ s : State, ∃ r, exec i s = .next { s with response := some r } ∧
      runInstrs [i, i] s = .next { s with response := some r }) ∧
  (∀ (v : Half) (s : State), runInstrs [.setCount v, .setCount v] s = exec (.setCount v) s) ∧
  (∀ s : State, runInstrs [.clear, .clear] s = exec .clear s)

/-- What HOST gets and what it leaves depends on POSITION, DELTA and FLAGS alone: the hidden state of 10_state section 8
has no reader (derived). -/
def Obligations.HiddenStateHasNoReader : Prop :=
  ∀ (w : CommandWord) (i : Instr) (a b a' b' : State), decodeCommand w = .ok i →
    a.position = b.position → a.delta = b.delta → a.flags = b.flags →
    exec i a = .next a' → exec i b = .next b' →
    a'.response = b'.response ∧ a'.position = b'.position ∧ a'.delta = b'.delta ∧ a'.flags = b'.flags

/-! ## QSAMPLE -/

/-- R103: the shift, the two patterns, and everything QSAMPLE writes. -/
def Obligations.QsampleRecognizesIndents : Prop :=
  ∀ (s : State) (sym : BitVec 2), ∃ t, exec (.qsample sym) s = .next t ∧
    t.hist.toNat = (s.hist.toNat * 4 + sym.toNat) % 256 ∧
    (t.hist = 0x4B#8 → t = { s with
      hist := t.hist, position := s.position + 1, delta := s.delta + 1, flags := s.flags ||| 0b0001#4 }) ∧
    (t.hist = 0x87#8 → t = { s with
      hist := t.hist, position := s.position - 1, delta := s.delta - 1, flags := s.flags ||| 0b0001#4 }) ∧
    (t.hist ≠ 0x4B#8 → t.hist ≠ 0x87#8 → t = { s with hist := t.hist })

/-- R104: what a QSAMPLE writes and never writes. -/
def Obligations.QsampleWritesOnlyRotationState : Prop :=
  ∀ (s t : State) (sym : BitVec 2), exec (.qsample sym) s = .next t →
    t.hist = s.hist <<< 2 ||| sym.setWidth 8 ∧
    (t.hist ≠ 0x4B#8 → t.hist ≠ 0x87#8 → t.position = s.position ∧ t.delta = s.delta ∧ t.flags = s.flags) ∧
    (∀ f, f ≠ .moved → readFlag f t.flags = readFlag f s.flags) ∧
    t.btn = s.btn ∧ t.debounceTs = s.debounceTs ∧ t.lastClick = s.lastClick ∧
    (t.hist = 0x4B#8 ∨ t.hist = 0x87#8 → readFlag .moved t.flags = true) ∧
    (∀ f, readFlag f s.flags = true → readFlag f t.flags = true) ∧
    t.qaPrev = s.qaPrev ∧ t.qbPrev = s.qbPrev ∧ t.btnPrev = s.btnPrev ∧ t.capture = s.capture ∧
    t.hasButton = s.hasButton ∧ t.response = s.response ∧ t.now = s.now ∧ t.stimulus = s.stimulus ∧
    t.draws = s.draws

/-- R22, R106: the counters wrap as 16-bit two's complement, each on its own, and nothing records it. -/
def Obligations.CountersWrap : Prop :=
  ∀ (s : State) (sym : BitVec 2),
    (s.hist <<< 2 ||| sym.setWidth 8 = 0x4B#8 → ∃ t, exec (.qsample sym) s = .next t ∧
      t.position.toInt = Int.bmod (s.position.toInt + 1) (2 ^ 16) ∧
      t.delta.toInt = Int.bmod (s.delta.toInt + 1) (2 ^ 16) ∧
      (s.position = 0x7FFF#16 → t.position = 0x8000#16) ∧ (s.delta = 0x7FFF#16 → t.delta = 0x8000#16) ∧
      t.flags = s.flags ||| 0b0001#4) ∧
    (s.hist <<< 2 ||| sym.setWidth 8 = 0x87#8 → ∃ t, exec (.qsample sym) s = .next t ∧
      t.position.toInt = Int.bmod (s.position.toInt - 1) (2 ^ 16) ∧
      t.delta.toInt = Int.bmod (s.delta.toInt - 1) (2 ^ 16) ∧
      (s.position = 0x8000#16 → t.position = 0x7FFF#16) ∧ (s.delta = 0x8000#16 → t.delta = 0x7FFF#16) ∧
      t.flags = s.flags ||| 0b0001#4)

/-- Two matches are at least four QSAMPLEs apart (derived in 40_quadrature section 3). -/
def Obligations.MatchesAreFourSamplesApart : Prop :=
  ∀ (s : State) (a b c : BitVec 2), s.hist = 0x4B#8 ∨ s.hist = 0x87#8 →
    ∃ t, runInstrs [.qsample a, .qsample b, .qsample c] s = .next t ∧
      t.position = s.position ∧ t.delta = s.delta ∧ t.flags = s.flags

/-- Only the newest four symbols decide (derived in 40_quadrature section 3): whatever the histories before, after the
same four symbols they agree and the fifth counts alike. -/
def Obligations.NewestFourSymbolsDecide : Prop :=
  ∀ (s u : State) (a b c d e : BitVec 2),
    ∃ s1 u1 s2 u2, runInstrs [.qsample a, .qsample b, .qsample c, .qsample d] s = .next s1 ∧
      runInstrs [.qsample a, .qsample b, .qsample c, .qsample d] u = .next u1 ∧
      s1.hist = a ++ b ++ c ++ d ∧ u1.hist = s1.hist ∧
      exec (.qsample e) s1 = .next s2 ∧ exec (.qsample e) u1 = .next u2 ∧
      s2.position - s1.position = u2.position - u1.position ∧ s2.delta - s1.delta = u2.delta - u1.delta

/-- A full turn counts one indent from every state (derived: 40_quadrature, the patterns as symbol sequences). -/
def Obligations.FullTurnCountsOneIndent : Prop :=
  ∀ s : State,
    runInstrs [.qsample 0b01#2, .qsample 0b00#2, .qsample 0b10#2, .qsample 0b11#2] s =
      .next { s with
        hist := 0x4B#8, position := s.position + 1, delta := s.delta + 1, flags := s.flags ||| 0b0001#4 } ∧
    runInstrs [.qsample 0b10#2, .qsample 0b00#2, .qsample 0b01#2, .qsample 0b11#2] s =
      .next { s with
        hist := 0x87#8, position := s.position - 1, delta := s.delta - 1, flags := s.flags ||| 0b0001#4 }

/-- DELTA - POSITION changes only through SET_COUNT and GET_DIFF with clear, and by reset (derived in 40_quadrature
section 3). -/
def Obligations.DeltaMinusPositionChangesOnlyByHost : Prop :=
  ∀ s t : State, step s = .next t → (nextInput s).rst = false → (∀ v, nextCommand s ≠ some (.setCount v)) →
    nextCommand s ≠ some (.getDiff true) → t.delta - t.position = s.delta - s.position

/-! ## BEDGE -/

/-- R132, R133, R134: the debounce check, the release branch and the press branch, with everything they write. -/
def Obligations.BedgeDebouncesAndToggles : Prop :=
  ∀ s : State,
    let elapsed := (s.now.toNat + 2 ^ Config.tsW - s.debounceTs.toNat) % 2 ^ Config.tsW
    let gap := (s.now.toNat + 2 ^ Config.tsW - s.lastClick.toNat) % 2 ^ Config.tsW
    (s.hasButton = false → exec .bedge s = .next s) ∧
    (s.hasButton = true → elapsed < 10000 → exec .bedge s = .next s) ∧
    (s.hasButton = true → 10000 ≤ elapsed → s.btn = .pressed → exec .bedge s = .next { s with
      debounceTs := s.now, btn := .released, lastClick := s.now,
      flags := s.flags ||| (if gap ≤ 500000 then 0b1100#4 else 0b0100#4) }) ∧
    (s.hasButton = true → 10000 ≤ elapsed → s.btn = .released → exec .bedge s = .next { s with
      debounceTs := s.now, btn := .pressed, flags := s.flags ||| 0b0010#4 })

/-- R135: what a BEDGE writes and never writes. -/
def Obligations.BedgeWritesOnlyButtonState : Prop :=
  ∀ s t : State, exec .bedge s = .next t →
    (¬(s.hasButton = true ∧ 10000 ≤ (s.now - s.debounceTs).toNat) → t = s) ∧
    (s.hasButton = true ∧ 10000 ≤ (s.now - s.debounceTs).toNat →
      t.debounceTs = s.now ∧ t.btn = otherButton s.btn ∧
      (s.btn = .released → readFlag .pressed t.flags = true ∧ t.lastClick = s.lastClick ∧
        ∀ f, f ≠ .pressed → readFlag f t.flags = readFlag f s.flags) ∧
      (s.btn = .pressed → readFlag .clicked t.flags = true ∧ t.lastClick = s.now ∧
        readFlag .pressed t.flags = readFlag .pressed s.flags)) ∧
    t.position = s.position ∧ t.delta = s.delta ∧ t.hist = s.hist ∧
    readFlag .moved t.flags = readFlag .moved s.flags ∧
    (∀ f, readFlag f s.flags = true → readFlag f t.flags = true) ∧
    t.qaPrev = s.qaPrev ∧ t.qbPrev = s.qbPrev ∧ t.btnPrev = s.btnPrev ∧ t.capture = s.capture ∧
    t.hasButton = s.hasButton ∧ t.response = s.response ∧ t.now = s.now ∧ t.stimulus = s.stimulus ∧
    t.draws = s.draws

/-- R140: both window boundaries, from any time. -/
def Obligations.WindowBoundariesAreExact : Prop :=
  ∀ (s : State) (t0 : Timestamp), s.hasButton = true →
    exec .bedge { s with debounceTs := t0, now := t0 + 9999#32 } =
      .next { s with debounceTs := t0, now := t0 + 9999#32 } ∧
    (∃ t, exec .bedge { s with debounceTs := t0, now := t0 + 10000#32 } = .next t ∧ t.btn = otherButton s.btn) ∧
    (s.btn = .pressed → 10000 ≤ (t0 + 500000#32 - s.debounceTs).toNat →
      ∃ t, exec .bedge { s with lastClick := t0, now := t0 + 500000#32 } = .next t ∧
        readFlag .clicked t.flags = true ∧ readFlag .doubleClicked t.flags = true) ∧
    (s.btn = .pressed → 10000 ≤ (t0 + 500001#32 - s.debounceTs).toNat →
      ∃ t, exec .bedge { s with lastClick := t0, now := t0 + 500001#32 } = .next t ∧
        readFlag .clicked t.flags = true ∧ readFlag .doubleClicked t.flags = readFlag .doubleClicked s.flags)

/-- BEDGE does not read the pins: the levels change nothing it writes (derived from C9 and D9). -/
def Obligations.BedgeIgnoresPinLevels : Prop :=
  ∀ (s t : State) (a b c : Level), exec .bedge s = .next t →
    exec .bedge { s with qaPrev := a, qbPrev := b, btnPrev := c } =
      .next { t with qaPrev := a, qbPrev := b, btnPrev := c }

/-- BTN after any BEDGEs is decided by how many were accepted (derived in 41_button section 3). -/
def Obligations.AcceptedEdgesAlternate : Prop :=
  ∀ (ts : List Timestamp) (s : State), ∃ t, runEdges ts s = .next t ∧
    t.btn = if acceptedEdges ts s % 2 = 0 then s.btn else otherButton s.btn

/-- R146: of two rapid edges only the first changes the button state. -/
def Obligations.SecondRapidEdgeIsDiscarded : Prop :=
  ∀ (s : State) (t1 t2 : Timestamp), s.hasButton = true → 10000 ≤ (t1 - s.debounceTs).toNat →
    (t2 - t1).toNat < 10000 →
    ∃ u, runEdges [t1] s = .next u ∧ u.btn = otherButton s.btn ∧ runEdges [t1, t2] s = .next { u with now := t2 }

/-- R147: two complete click cycles, and the gap between their releases. -/
def Obligations.DoubleClickNeedsGapInWindow : Prop :=
  ∀ (s : State) (p1 r1 p2 r2 : Timestamp), s.hasButton = true → s.btn = .released →
    10000 ≤ (p1 - s.debounceTs).toNat → 10000 ≤ (r1 - p1).toNat → 10000 ≤ (p2 - r1).toNat →
    10000 ≤ (r2 - p2).toNat →
    ∃ u v, runEdges [p1, r1, p2] s = .next u ∧ runEdges [p1, r1, p2, r2] s = .next v ∧
      readFlag .clicked v.flags = true ∧
      ((r2 - r1).toNat ≤ 500000 → readFlag .doubleClicked v.flags = true) ∧
      (500000 < (r2 - r1).toNat → readFlag .doubleClicked v.flags = readFlag .doubleClicked u.flags)

/-- Time differences across a wrap, for every TS_W (derived in 41_button section 3): an elapsed time is seen modulo
2^TS_W, so rightly when it is shorter, and the comparisons go by what is seen. -/
def Obligations.TimeDifferencesWrap : Prop :=
  ∀ (w : Nat) (since : BitVec w) (elapsed : Nat),
    (timeSince (since + BitVec.ofNat w elapsed) since).toNat = elapsed % 2 ^ w ∧
    (insideDebounce (since + BitVec.ofNat w elapsed) since = true ↔ elapsed % 2 ^ w < 10000) ∧
    (insideDoubleClick (since + BitVec.ofNat w elapsed) since = true ↔ elapsed % 2 ^ w ≤ 500000)

/-! ## Cycles -/

/-- A cycle that presents a command word runs the decoded command (derived: 20_memory section 2; the idle port
it starts from is log 12). -/
def Obligations.StepRunsDecodedCommand : Prop :=
  ∀ (s : State) (c : CycleInput) (cs : List CycleInput) (w : CommandWord) (i : Instr),
    s.stimulus = c :: cs → c.rst = false → c.command = some w → decode (.host w) = .ok i →
    s.capture = true ∨ c.events = some [] →
    step s = andThen (exec i { s with stimulus := cs, now := c.now, response := none }) fun t =>
      .next { t with qaPrev := c.qa, qbPrev := c.qb, btnPrev := c.btnIn, capture := false }

/-- A cycle that presents an event word runs the decoded event (derived: 20_memory section 2; the idle port it
starts from is log 12). -/
def Obligations.StepRunsDecodedEvent : Prop :=
  ∀ (s : State) (c : CycleInput) (cs : List CycleInput) (e : EventWord) (i : Instr),
    s.stimulus = c :: cs → c.rst = false → c.command = none → s.capture = false → c.events = some [e] →
    decode (.event e) = .ok i →
    step s = andThen (exec i { s with stimulus := cs, now := c.now, response := none }) fun t =>
      .next { t with qaPrev := c.qa, qbPrev := c.qb, btnPrev := c.btnIn, capture := false }

/-- The word of an opcode-table row, placed next, is what the step runs (derived; placing is logs 1 and 6; the idle response
port exec starts from is log 12; telling an event word from a command word by its length is log 16). -/
def Obligations.PlacedTableWordRuns : Prop :=
  ∀ (s : State) (w : Nat) (i : Instr),
    (decodeTableWord 32 w = some i →
      step (s.withFetchWord 32 w) = andThen (exec i { s with response := none }) fun t =>
        .next { t with qaPrev := s.qaPrev, qbPrev := s.qbPrev, btnPrev := s.btnPrev, capture := false }) ∧
    (decodeTableWord 8 w = some i →
      step (s.withFetchWord 8 w) = andThen (exec i { s with capture := false, response := none }) fun t =>
        .next { t with qaPrev := s.qaPrev, qbPrev := s.qbPrev, btnPrev := s.btnPrev, capture := false })

/-- R53: whichever of a host command, a QSAMPLE and a BEDGE a cycle takes are applied in that order, each on the state the
earlier ones left, in whichever order the event words stand at the port; only one event word of a kind is taken;
and likewise when the front ends make the events. -/
def Obligations.SameCycleOrderIsHostSampleEdge : Prop :=
  (∀ (s : State) (cmd : Option (CommandWord × Instr)) (sample : Option (BitVec 2)) (edge : Bool) (now : Timestamp)
      (ws : List EventWord),
    (∀ w i, cmd = some (w, i) → decodeCommand w = .ok i) →
    ws = (sample.map (BitVec.setWidth 8)).toList ++ (if edge then [0x40#8] else []) ∨
      ws = (if edge then [0x40#8] else []) ++ (sample.map (BitVec.setWidth 8)).toList →
    ∃ r t, runInstrs ((cmd.map Prod.snd).toList ++ (sample.map Instr.qsample).toList ++ (if edge then [.bedge] else []))
        { s with capture := false, now := now, response := r } = .next t ∧
      step (presenting s (cmd.map Prod.fst) ws now) = .next t) ∧
  (∀ (s : State) (cmd : Option CommandWord) (now : Timestamp) (a b : BitVec 2),
    step (presenting s cmd [a.setWidth 8, b.setWidth 8, 0x40#8, 0x40#8] now) =
        step (presenting s cmd [a.setWidth 8, 0x40#8] now) ∨
      step (presenting s cmd [a.setWidth 8, b.setWidth 8, 0x40#8, 0x40#8] now) =
        step (presenting s cmd [b.setWidth 8, 0x40#8] now)) ∧
  (∀ (s : State) (w : CommandWord) (i : Instr), (nextInput s).rst = false → s.capture = false →
    (nextInput s).command = some w → decodeCommand w = .ok i → (nextInput s).events = none →
    symbolOf (nextInput s).qa (nextInput s).qb ≠ symbolOf s.qaPrev s.qbPrev →
    s.hasButton = true → (nextInput s).btnIn ≠ s.btnPrev →
    ∃ r t, runInstrs [i, .qsample (symbolOf (nextInput s).qa (nextInput s).qb), .bedge]
        { takeInput s with now := (nextInput s).now, response := r } = .next t ∧
      step s = .next { t with
        qaPrev := (nextInput s).qa, qbPrev := (nextInput s).qb, btnPrev := (nextInput s).btnIn, capture := false })

/-- QSAMPLE and BEDGE commute (derived in 20_memory section 2). -/
def Obligations.EventsCommute : Prop :=
  ∀ (s : State) (sym : BitVec 2),
    ∃ t, runInstrs [.qsample sym, .bedge] s = .next t ∧ runInstrs [.bedge, .qsample sym] s = .next t

/-- A flag set by an event survives whatever command the same cycle takes (derived in 20_memory section 2). -/
def Obligations.SetWinsOverSameCycleClear : Prop :=
  (∀ (s : State) (sym : BitVec 2), nextSample s = some (.qsample sym) →
    s.hist <<< 2 ||| sym.setWidth 8 = 0x4B#8 ∨ s.hist <<< 2 ||| sym.setWidth 8 = 0x87#8 →
    ∃ t, step s = .next t ∧ readFlag .moved t.flags = true) ∧
  (∀ s : State, nextEdge s = some .bedge → s.hasButton = true →
    10000 ≤ ((nextInput s).now - s.debounceTs).toNat →
    ∃ t, step s = .next t ∧ (s.btn = .released → readFlag .pressed t.flags = true) ∧
      (s.btn = .pressed → readFlag .clicked t.flags = true) ∧
      (s.btn = .pressed → ((nextInput s).now - s.lastClick).toNat ≤ 500000 →
        readFlag .doubleClicked t.flags = true))

/-- DELTA is conserved by every cycle, whatever it takes (derived in 20_memory section 2). -/
def Obligations.DeltaConservedByEveryStep : Prop :=
  ∀ (s t : State) (l : Ledger), step s = .next t → l.Balanced s → (l.account s t).Balanced t

/-- DELTA is conserved over every run of any length, from reset too (derived in 20_memory section 2). -/
def Obligations.DeltaConservedOverRuns : Prop :=
  (∀ cs : List CycleInput, Ledger.start.Balanced { State.reset with stimulus := cs }) ∧
  ∀ (k : Nat) (s : State) (l : Ledger), l.Balanced s → ∃ t l', runLedger k s l = some (t, l') ∧ l'.Balanced t

/-- R25: a flag falls only by a clearing read of it or by CLEAR; the other way, RST, is rule R230. -/
def Obligations.FlagsFallOnlyByClearingCommand : Prop :=
  ∀ (s t : State) (f : Flag), step s = .next t → (nextInput s).rst = false →
    readFlag f s.flags = true → readFlag f t.flags = false →
    ∃ i, nextCommand s = some i ∧ clearsFlag f i = true

/-- R27: one producer per flag; HOST alone clears, and no event depends on the flags. -/
def Obligations.EachFlagHasOneProducer : Prop :=
  (∀ (s t : State) (sym : BitVec 2) (f : Flag), exec (.qsample sym) s = .next t →
    (f ≠ .moved → readFlag f t.flags = readFlag f s.flags) ∧
    (readFlag f s.flags = true → readFlag f t.flags = true)) ∧
  (∀ (s t : State) (f : Flag), exec .bedge s = .next t →
    (f = .moved → readFlag f t.flags = readFlag f s.flags) ∧
    (readFlag f s.flags = true → readFlag f t.flags = true)) ∧
  (∀ (w : CommandWord) (i : Instr) (s t : State) (f : Flag), decodeCommand w = .ok i → exec i s = .next t →
    readFlag f s.flags = false → readFlag f t.flags = false) ∧
  (∀ (i : Instr) (s t u : State) (fl : BitVec 4), (i = .bedge ∨ ∃ sym, i = .qsample sym) → exec i s = .next t →
    exec i { s with flags := fl } = .next u → u = { t with flags := u.flags })

/-- The invariant of Safety is kept by every step (derived). -/
def Obligations.EveryStepKeepsInv : Prop :=
  ∀ s t : State, Inv s → step s = .next t → Inv t

/-- The invariant holds at reset, whatever the outside world will present (derived). -/
def Obligations.ResetMeetsInv : Prop :=
  ∀ cs : List CycleInput, Inv { State.reset with stimulus := cs }

/-- R200: nothing ever fails. -/
def Obligations.EveryTransactionCompletes : Prop :=
  (∀ (i : Instr) (s : State), ∃ t, exec i s = .next t) ∧ ∀ s : State, ∃ t, step s = .next t

/-- R201: ERR is 1 for exactly an ILLEGAL command word and depends on that command alone; nothing else is recorded of it,
and an illegal event word is not reported. -/
def Obligations.ErrExactlyForIllegalCommands : Prop :=
  ∀ s t : State, step s = .next t → (nextInput s).rst = false →
    ((nextInput s).command = none → ∀ r, t.response = some r → r.err = false) ∧
    (∀ w, (nextInput s).command = some w →
      ∃ r, t.response = some r ∧ (r.err = true ↔ decodeCommand w = .error .illegalCommand)) ∧
    (∀ w, (nextInput s).command = some w → decodeCommand w = .error .illegalCommand →
      nextSample s = none → nextEdge s = none →
      t = { takeInput s with
        response := some ⟨true, 0x0000#16⟩, now := (nextInput s).now, qaPrev := (nextInput s).qa,
        qbPrev := (nextInput s).qb, btnPrev := (nextInput s).btnIn, capture := false })

/-- R76: an ILLEGAL command word changes no state and answers (1, 0x0000); an event of the cycle is as without it. -/
def Obligations.IllegalCommandChangesNothing : Prop :=
  ∀ (s : State) (w : CommandWord) (ws : List EventWord) (now : Timestamp),
    decodeCommand w = .error .illegalCommand →
    step (presenting s (some w) [] now) =
      .next { s with capture := false, now := now, response := some ⟨true, 0x0000#16⟩ } ∧
    ∃ t, step (presenting s none ws now) = .next t ∧
      step (presenting s (some w) ws now) = .next { t with response := some ⟨true, 0x0000#16⟩ }

/-- R82: an ILLEGAL_EVENT changes no state, whatever stands beside it, and the front ends make none. -/
def Obligations.IllegalEventChangesNothing : Prop :=
  (∀ (s : State) (e : EventWord) (now : Timestamp), decodeEvent e = .error .illegalEvent →
    (∃ r, step (presenting s none [e] now) = .next { s with capture := false, now := now, response := r }) ∧
    ∀ (cmd : Option CommandWord) (us vs : List EventWord),
      step (presenting s cmd (us ++ e :: vs) now) = step (presenting s cmd (us ++ vs) now)) ∧
  (∀ (c : CycleInput) (s : State), ∀ e ∈ quadratureWords c s ++ buttonWords c s, ∃ i, decodeEvent e = .ok i)

/-- R100: the quadrature front end. -/
def Obligations.QuadratureFrontEndSamplesEdges : Prop :=
  ∀ (s : State) (c : CycleInput) (cs : List CycleInput), s.stimulus = c :: cs → c.rst = false → c.events = none →
    ∃ t, step s = .next t ∧ t.qaPrev = c.qa ∧ t.qbPrev = c.qb ∧
      (s.capture = true → nextSample s = none ∧ t.hist = s.hist) ∧
      (s.capture = false → c.qa = s.qaPrev → c.qb = s.qbPrev → nextSample s = none ∧ t.hist = s.hist) ∧
      (s.capture = false → c.qa ≠ s.qaPrev ∨ c.qb ≠ s.qbPrev →
        nextSample s = some (.qsample (BitVec.ofBool c.qa ++ BitVec.ofBool c.qb)) ∧
        t.hist.toNat = (s.hist.toNat * 4 + 2 * c.qa.toNat + c.qb.toNat) % 256)

/-- R130: the button front end. -/
def Obligations.ButtonFrontEndDetectsEdges : Prop :=
  ∀ (s : State) (c : CycleInput) (cs : List CycleInput), s.stimulus = c :: cs → c.rst = false → c.events = none →
    ∃ t, step s = .next t ∧ (s.hasButton = true → t.btnPrev = c.btnIn) ∧
      (s.hasButton = false ∨ s.capture = true ∨ c.btnIn = s.btnPrev →
        nextEdge s = none ∧ t.btn = s.btn ∧ t.debounceTs = s.debounceTs ∧ t.lastClick = s.lastClick) ∧
      (s.hasButton = true → s.capture = false → c.btnIn ≠ s.btnPrev → nextEdge s = some .bedge ∧
        (10000 ≤ (c.now - s.debounceTs).toNat → t.btn = otherButton s.btn ∧ t.debounceTs = c.now))

/-- R29, R30, R31: only an accepted BEDGE writes BTN, DEBOUNCE_TS and LAST_CLICK, the last only when it is a release. -/
def Obligations.AcceptedEdgesAloneWriteButtonRegisters : Prop :=
  buttonBit .released = 0#1 ∧ buttonBit .pressed = 1#1 ∧
  ∀ s t : State, step s = .next t → (nextInput s).rst = false →
    let accepted := nextEdge s = some .bedge ∧ s.hasButton = true ∧
      10000 ≤ ((nextInput s).now - s.debounceTs).toNat
    (accepted → t.btn = otherButton s.btn ∧ t.debounceTs = (nextInput s).now) ∧
    (¬accepted → t.btn = s.btn ∧ t.debounceTs = s.debounceTs) ∧
    (accepted → s.btn = .pressed → t.lastClick = (nextInput s).now) ∧
    (¬(accepted ∧ s.btn = .pressed) → t.lastClick = s.lastClick)

/-- POSITION, DELTA and HIST and who writes them, over a whole cycle (derived: sections 2 and 3 of 10_state). -/
def Obligations.RotationRegistersHaveTheirWriters : Prop :=
  ∀ s t : State, step s = .next t → (nextInput s).rst = false →
    (t.hist ≠ s.hist → ∃ sym, nextSample s = some (.qsample sym)) ∧
    (t.position ≠ s.position →
      (∃ v, nextCommand s = some (.setCount v)) ∨
        ∃ sym, nextSample s = some (.qsample sym) ∧ (t.hist = 0x4B#8 ∨ t.hist = 0x87#8)) ∧
    (t.delta ≠ s.delta →
      nextCommand s = some (.getDiff true) ∨
        ∃ sym, nextSample s = some (.qsample sym) ∧ (t.hist = 0x4B#8 ∨ t.hist = 0x87#8))

/-- A button held through reset: its release is taken as a press (derived in 70_reset_and_hazards section 3). -/
def Obligations.HeldButtonReleaseIsTakenAsPress : Prop :=
  ∀ (s : State) (c : CycleInput) (cs : List CycleInput), s.stimulus = c :: cs → c.rst = false → c.events = none →
    c.command = none → s.capture = false → s.hasButton = true → s.btn = .released → s.btnPrev = false →
    c.btnIn = true → 10000 ≤ (c.now - s.debounceTs).toNat →
    ∃ t, step s = .next t ∧ t.btn = .pressed ∧ readFlag .pressed t.flags = true ∧
      readFlag .clicked t.flags = readFlag .clicked s.flags

/-- The timestamps' reset values show (derived in 70_reset_and_hazards section 3): an edge in the first window is
discarded, and the first release sets DoubleClicked exactly when its time is at most DBLCLICK_US. -/
def Obligations.ResetTimestampsShow : Prop :=
  ∀ s : State, s.hasButton = true → s.btn = .released → s.debounceTs = 0 → s.lastClick = 0 →
    readFlag .doubleClicked s.flags = false →
    (∀ t1 : Timestamp, t1.toNat < 10000 → runEdges [t1] s = .next { s with now := t1 }) ∧
    (∀ t1 t2 : Timestamp, 10000 ≤ t1.toNat → 10000 ≤ (t2 - t1).toNat →
      ∃ t, runEdges [t1, t2] s = .next t ∧ readFlag .clicked t.flags = true ∧
        readFlag .doubleClicked t.flags = decide (t2.toNat ≤ 500000))

/-- R10: TS_W is a parameter. This hardware is the machine at width 32; widths from 20 on are admitted, and why; at every
width every cycle completes and BEDGE compares and stamps modulo 2^TS_W. -/
def Obligations.EveryWidthFollowsTheSameRules : Prop :=
  Config.tsW = 32 ∧ (∀ w : Nat, Config.admitsWidth w = true ↔ 20 ≤ w) ∧
  (∀ h : Config.admitsWidth 32 = true, Sys2Proof.core = coreAt 32 h) ∧
  (∀ (i : Instr) (s : State), execAt i s = exec i s) ∧ (∀ s : State, stepAt s = step s) ∧
  (∀ (w : Nat) (s : State.At w),
    (∃ t, stepAt s = .next t) ∧
    (let elapsed := (s.now.toNat + 2 ^ w - s.debounceTs.toNat) % 2 ^ w
      let gap := (s.now.toNat + 2 ^ w - s.lastClick.toNat) % 2 ^ w
      (s.hasButton = false → execAt .bedge s = .next s) ∧
      (s.hasButton = true → elapsed < 10000 → execAt .bedge s = .next s) ∧
      (s.hasButton = true → 10000 ≤ elapsed → s.btn = .pressed → execAt .bedge s = .next { s with
        debounceTs := s.now, btn := .released, lastClick := s.now,
        flags := s.flags ||| (if gap ≤ 500000 then 0b1100#4 else 0b0100#4) }) ∧
      (s.hasButton = true → 10000 ≤ elapsed → s.btn = .released → execAt .bedge s = .next { s with
        debounceTs := s.now, btn := .pressed, flags := s.flags ||| 0b0010#4 }))) ∧
  (∀ w : Nat, 20 ≤ w → ∀ (t : BitVec w) (gap : Nat), 0 < gap → gap ≤ 500000 →
    insideDoubleClick (t + BitVec.ofNat w gap) t = true ∧ insideDoubleClick t (t + BitVec.ofNat w gap) = false) ∧
  2 ^ 19 ≤ 2 * Config.dblclickUs ∧ 2 * Config.dblclickUs < 2 ^ 20 ∧
  (∀ w : Nat, w ≤ 18 → 2 ^ w ≤ Config.dblclickUs ∧ ∀ now since : BitVec w, insideDoubleClick now since = true)
end

