-- ==== Sys2Proof/Laws/Encoding.lean ====
section
/-! SUPPORT. The fields of an encoded word, and a word from its fields (R70, R80). -/

namespace Sys2Proof

/-- Every bit of a command word (R70). -/
theorem commandWord_bit (op : BitVec 4) (p : Bool) (d : Half) (i : Nat) :
    (commandWord op p d).getLsbD i =
      if i < 16 then d.getLsbD i
      else if i < 17 then p
      else if i < 28 then false
      else op.getLsbD (i - 28) := by
  have h1 := BitVec.getLsbD_append (x := op ++ 0#11 ++ BitVec.ofBool p) (y := d) (i := i)
  have h2 := BitVec.getLsbD_append (x := op ++ 0#11) (y := BitVec.ofBool p) (i := i - 16)
  have h3 := BitVec.getLsbD_append (x := op) (y := 0#11) (i := i - 16 - 1)
  refine h1.trans ?_
  rw [h2, h3]
  by_cases c1 : i < 16
  · simp [c1]
  · by_cases c2 : i < 17
    · have : i = 16 := by omega
      subst this
      simp
    · by_cases c3 : i < 28
      · have a1 : ¬ i - 16 < 1 := by omega
        have a2 : i - 16 - 1 < 11 := by omega
        simp [c1, c2, c3, a1, a2]
      · have a1 : ¬ i - 16 < 1 := by omega
        have a2 : ¬ i - 16 - 1 < 11 := by omega
        have a3 : i - 16 - 1 - 11 = i - 28 := by omega
        simp [c1, c2, c3, a1, a2, a3]

@[simp] theorem opField_commandWord (op : BitVec 4) (p : Bool) (d : Half) : opField (commandWord op p d) = op := by
  apply BitVec.eq_of_getLsbD_eq
  intro i hi
  simp only [opField, BitVec.getLsbD_extractLsb', commandWord_bit]
  interval_cases i <;> simp

@[simp] theorem rsvField_commandWord (op : BitVec 4) (p : Bool) (d : Half) : rsvField (commandWord op p d) = 0 := by
  apply BitVec.eq_of_getLsbD_eq
  intro i hi
  simp only [rsvField, BitVec.getLsbD_extractLsb', commandWord_bit]
  interval_cases i <;> simp

@[simp] theorem peekField_commandWord (op : BitVec 4) (p : Bool) (d : Half) : peekField (commandWord op p d) = p := by
  unfold peekField
  rw [commandWord_bit]
  simp

@[simp] theorem dataField_commandWord (op : BitVec 4) (p : Bool) (d : Half) : dataField (commandWord op p d) = d := by
  apply BitVec.eq_of_getLsbD_eq
  intro i hi
  simp [dataField, commandWord_bit, hi]

/-- A command word with RSV = 0 is the word of its fields. -/
theorem commandWord_of_fields (w : CommandWord) (h : rsvField w = 0) :
    commandWord (opField w) (peekField w) (dataField w) = w := by
  have hr : ∀ j, j < 11 → w.getLsbD (17 + j) = false := by
    intro j hj
    have := congrArg (fun x => x.getLsbD j) h
    simpa [rsvField, BitVec.getLsbD_extractLsb', hj] using this
  apply BitVec.eq_of_getLsbD_eq
  intro i hi
  rw [commandWord_bit]
  by_cases c1 : i < 16
  · simp [c1, dataField]
  · by_cases c2 : i < 17
    · have : i = 16 := by omega
      subst this
      simp [peekField]
    · by_cases c3 : i < 28
      · have := hr (i - 17) (by omega)
        rw [show 17 + (i - 17) = i by omega] at this
        simp [c1, c2, c3, this]
      · have a1 : i - 28 < 4 := by omega
        have a2 : 28 + (i - 28) = i := by omega
        simp only [c1, c2, c3, if_false, opField, BitVec.getLsbD_extractLsb', a1, a2, decide_true, Bool.true_and]

@[simp] theorem ersvField_eventWord (k : BitVec 2) (sym : BitVec 2) : ersvField (eventWord k sym) = 0 := by
  revert k sym; decide

@[simp] theorem kindField_eventWord (k : BitVec 2) (sym : BitVec 2) : kindField (eventWord k sym) = k := by
  revert k sym; decide

@[simp] theorem symField_eventWord (k : BitVec 2) (sym : BitVec 2) : symField (eventWord k sym) = sym := by
  revert k sym; decide

/-- An event word with ERSV = 0 is the word of its fields. -/
theorem eventWord_of_fields (e : EventWord) (h : ersvField e = 0) : eventWord (kindField e) (symField e) = e := by
  revert e; decide

/-- An event word decodes to an event only (R81). -/
theorem decodeEvent_ok {e : EventWord} {i : Instr} (h : decodeEvent e = .ok i) : (∃ sym, i = .qsample sym) ∨ i = .bedge := by
  unfold decodeEvent at h
  split at h
  · cases h
  · split at h
    · exact .inl ⟨_, (Except.ok.inj h).symm⟩
    · split at h
      · exact .inr (Except.ok.inj h).symm
      · cases h
    · cases h

/-- The word of QSAMPLE decodes to it (R80, R81). -/
@[simp] theorem decodeEvent_sample (sym : BitVec 2) : decodeEvent (eventWord 0b00#2 sym) = .ok (.qsample sym) := by
  revert sym; decide

/-- The word of BEDGE decodes to it (R80, R81). -/
@[simp] theorem decodeEvent_edge : decodeEvent (eventWord 0b01#2 0) = .ok .bedge := by decide

end Sys2Proof
end

