-- ==== Sys2Proof/Laws/Flags.lean ====
section
/-! SUPPORT. What setting, clearing and reading a flag do to every flag (R13, R24, R26). -/

namespace Sys2Proof.Machine

@[simp] theorem readFlag_setFlag (f g : Flag) (fl : BitVec 4) :
    readFlag g (setFlag f fl) = (decide (g = f) || readFlag g fl) := by
  cases f <;> cases g <;> simp [readFlag, setFlag, flagMask, flagBit]

@[simp] theorem readFlag_clearFlag (f g : Flag) (fl : BitVec 4) :
    readFlag g (clearFlag f fl) = (!decide (g = f) && readFlag g fl) := by
  cases f <;> cases g <;> simp [readFlag, clearFlag, flagMask, flagBit]

@[simp] theorem readFlag_cleared (f : Flag) : readFlag f clearedFlags = false := by
  cases f <;> decide

@[simp] theorem readFlag_zero (f : Flag) : readFlag f 0#4 = false := readFlag_cleared f

/-- Two flag registers are equal when their four flags are. -/
theorem flags_ext {a b : BitVec 4} (h : ∀ f, readFlag f a = readFlag f b) : a = b := by
  have h0 := h .moved
  have h1 := h .pressed
  have h2 := h .clicked
  have h3 := h .doubleClicked
  simp only [readFlag, flagBit] at h0 h1 h2 h3
  apply BitVec.eq_of_getLsbD_eq
  intro i hi
  interval_cases i <;> assumption

/-- Setting two flags commutes. -/
theorem setFlag_comm (f g : Flag) (fl : BitVec 4) : setFlag f (setFlag g fl) = setFlag g (setFlag f fl) := by
  simp only [setFlag, BitVec.or_assoc, BitVec.or_comm (flagMask f)]

end Sys2Proof.Machine
end

