-- ==== Sys2Proof/Laws/State.lean ====
section
/-! SUPPORT. One lemma per field per named update of State and per field of the reset state, each true by rfl. -/

namespace Sys2Proof.Machine

variable {w : Nat} (s : State.At w)

/-! ### putPosition -/

@[simp] theorem putPosition_position (v : Half) : (putPosition v s).position = v := rfl
@[simp] theorem putPosition_delta (v : Half) : (putPosition v s).delta = s.delta := rfl
@[simp] theorem putPosition_hist (v : Half) : (putPosition v s).hist = s.hist := rfl
@[simp] theorem putPosition_flags (v : Half) : (putPosition v s).flags = s.flags := rfl
@[simp] theorem putPosition_btn (v : Half) : (putPosition v s).btn = s.btn := rfl
@[simp] theorem putPosition_debounceTs (v : Half) : (putPosition v s).debounceTs = s.debounceTs := rfl
@[simp] theorem putPosition_lastClick (v : Half) : (putPosition v s).lastClick = s.lastClick := rfl
@[simp] theorem putPosition_qaPrev (v : Half) : (putPosition v s).qaPrev = s.qaPrev := rfl
@[simp] theorem putPosition_qbPrev (v : Half) : (putPosition v s).qbPrev = s.qbPrev := rfl
@[simp] theorem putPosition_btnPrev (v : Half) : (putPosition v s).btnPrev = s.btnPrev := rfl
@[simp] theorem putPosition_capture (v : Half) : (putPosition v s).capture = s.capture := rfl
@[simp] theorem putPosition_hasButton (v : Half) : (putPosition v s).hasButton = s.hasButton := rfl
@[simp] theorem putPosition_response (v : Half) : (putPosition v s).response = s.response := rfl
@[simp] theorem putPosition_now (v : Half) : (putPosition v s).now = s.now := rfl
@[simp] theorem putPosition_stimulus (v : Half) : (putPosition v s).stimulus = s.stimulus := rfl
@[simp] theorem putPosition_draws (v : Half) : (putPosition v s).draws = s.draws := rfl

/-! ### putDelta -/

@[simp] theorem putDelta_position (v : Half) : (putDelta v s).position = s.position := rfl
@[simp] theorem putDelta_delta (v : Half) : (putDelta v s).delta = v := rfl
@[simp] theorem putDelta_hist (v : Half) : (putDelta v s).hist = s.hist := rfl
@[simp] theorem putDelta_flags (v : Half) : (putDelta v s).flags = s.flags := rfl
@[simp] theorem putDelta_btn (v : Half) : (putDelta v s).btn = s.btn := rfl
@[simp] theorem putDelta_debounceTs (v : Half) : (putDelta v s).debounceTs = s.debounceTs := rfl
@[simp] theorem putDelta_lastClick (v : Half) : (putDelta v s).lastClick = s.lastClick := rfl
@[simp] theorem putDelta_qaPrev (v : Half) : (putDelta v s).qaPrev = s.qaPrev := rfl
@[simp] theorem putDelta_qbPrev (v : Half) : (putDelta v s).qbPrev = s.qbPrev := rfl
@[simp] theorem putDelta_btnPrev (v : Half) : (putDelta v s).btnPrev = s.btnPrev := rfl
@[simp] theorem putDelta_capture (v : Half) : (putDelta v s).capture = s.capture := rfl
@[simp] theorem putDelta_hasButton (v : Half) : (putDelta v s).hasButton = s.hasButton := rfl
@[simp] theorem putDelta_response (v : Half) : (putDelta v s).response = s.response := rfl
@[simp] theorem putDelta_now (v : Half) : (putDelta v s).now = s.now := rfl
@[simp] theorem putDelta_stimulus (v : Half) : (putDelta v s).stimulus = s.stimulus := rfl
@[simp] theorem putDelta_draws (v : Half) : (putDelta v s).draws = s.draws := rfl

/-! ### putHist -/

@[simp] theorem putHist_position (h : BitVec 8) : (putHist h s).position = s.position := rfl
@[simp] theorem putHist_delta (h : BitVec 8) : (putHist h s).delta = s.delta := rfl
@[simp] theorem putHist_hist (h : BitVec 8) : (putHist h s).hist = h := rfl
@[simp] theorem putHist_flags (h : BitVec 8) : (putHist h s).flags = s.flags := rfl
@[simp] theorem putHist_btn (h : BitVec 8) : (putHist h s).btn = s.btn := rfl
@[simp] theorem putHist_debounceTs (h : BitVec 8) : (putHist h s).debounceTs = s.debounceTs := rfl
@[simp] theorem putHist_lastClick (h : BitVec 8) : (putHist h s).lastClick = s.lastClick := rfl
@[simp] theorem putHist_qaPrev (h : BitVec 8) : (putHist h s).qaPrev = s.qaPrev := rfl
@[simp] theorem putHist_qbPrev (h : BitVec 8) : (putHist h s).qbPrev = s.qbPrev := rfl
@[simp] theorem putHist_btnPrev (h : BitVec 8) : (putHist h s).btnPrev = s.btnPrev := rfl
@[simp] theorem putHist_capture (h : BitVec 8) : (putHist h s).capture = s.capture := rfl
@[simp] theorem putHist_hasButton (h : BitVec 8) : (putHist h s).hasButton = s.hasButton := rfl
@[simp] theorem putHist_response (h : BitVec 8) : (putHist h s).response = s.response := rfl
@[simp] theorem putHist_now (h : BitVec 8) : (putHist h s).now = s.now := rfl
@[simp] theorem putHist_stimulus (h : BitVec 8) : (putHist h s).stimulus = s.stimulus := rfl
@[simp] theorem putHist_draws (h : BitVec 8) : (putHist h s).draws = s.draws := rfl

/-! ### putFlags -/

@[simp] theorem putFlags_position (fl : BitVec 4) : (putFlags fl s).position = s.position := rfl
@[simp] theorem putFlags_delta (fl : BitVec 4) : (putFlags fl s).delta = s.delta := rfl
@[simp] theorem putFlags_hist (fl : BitVec 4) : (putFlags fl s).hist = s.hist := rfl
@[simp] theorem putFlags_flags (fl : BitVec 4) : (putFlags fl s).flags = fl := rfl
@[simp] theorem putFlags_btn (fl : BitVec 4) : (putFlags fl s).btn = s.btn := rfl
@[simp] theorem putFlags_debounceTs (fl : BitVec 4) : (putFlags fl s).debounceTs = s.debounceTs := rfl
@[simp] theorem putFlags_lastClick (fl : BitVec 4) : (putFlags fl s).lastClick = s.lastClick := rfl
@[simp] theorem putFlags_qaPrev (fl : BitVec 4) : (putFlags fl s).qaPrev = s.qaPrev := rfl
@[simp] theorem putFlags_qbPrev (fl : BitVec 4) : (putFlags fl s).qbPrev = s.qbPrev := rfl
@[simp] theorem putFlags_btnPrev (fl : BitVec 4) : (putFlags fl s).btnPrev = s.btnPrev := rfl
@[simp] theorem putFlags_capture (fl : BitVec 4) : (putFlags fl s).capture = s.capture := rfl
@[simp] theorem putFlags_hasButton (fl : BitVec 4) : (putFlags fl s).hasButton = s.hasButton := rfl
@[simp] theorem putFlags_response (fl : BitVec 4) : (putFlags fl s).response = s.response := rfl
@[simp] theorem putFlags_now (fl : BitVec 4) : (putFlags fl s).now = s.now := rfl
@[simp] theorem putFlags_stimulus (fl : BitVec 4) : (putFlags fl s).stimulus = s.stimulus := rfl
@[simp] theorem putFlags_draws (fl : BitVec 4) : (putFlags fl s).draws = s.draws := rfl

/-! ### putBtn -/

@[simp] theorem putBtn_position (b : Button) : (putBtn b s).position = s.position := rfl
@[simp] theorem putBtn_delta (b : Button) : (putBtn b s).delta = s.delta := rfl
@[simp] theorem putBtn_hist (b : Button) : (putBtn b s).hist = s.hist := rfl
@[simp] theorem putBtn_flags (b : Button) : (putBtn b s).flags = s.flags := rfl
@[simp] theorem putBtn_btn (b : Button) : (putBtn b s).btn = b := rfl
@[simp] theorem putBtn_debounceTs (b : Button) : (putBtn b s).debounceTs = s.debounceTs := rfl
@[simp] theorem putBtn_lastClick (b : Button) : (putBtn b s).lastClick = s.lastClick := rfl
@[simp] theorem putBtn_qaPrev (b : Button) : (putBtn b s).qaPrev = s.qaPrev := rfl
@[simp] theorem putBtn_qbPrev (b : Button) : (putBtn b s).qbPrev = s.qbPrev := rfl
@[simp] theorem putBtn_btnPrev (b : Button) : (putBtn b s).btnPrev = s.btnPrev := rfl
@[simp] theorem putBtn_capture (b : Button) : (putBtn b s).capture = s.capture := rfl
@[simp] theorem putBtn_hasButton (b : Button) : (putBtn b s).hasButton = s.hasButton := rfl
@[simp] theorem putBtn_response (b : Button) : (putBtn b s).response = s.response := rfl
@[simp] theorem putBtn_now (b : Button) : (putBtn b s).now = s.now := rfl
@[simp] theorem putBtn_stimulus (b : Button) : (putBtn b s).stimulus = s.stimulus := rfl
@[simp] theorem putBtn_draws (b : Button) : (putBtn b s).draws = s.draws := rfl

/-! ### putDebounceTs -/

@[simp] theorem putDebounceTs_position (t : BitVec w) : (putDebounceTs t s).position = s.position := rfl
@[simp] theorem putDebounceTs_delta (t : BitVec w) : (putDebounceTs t s).delta = s.delta := rfl
@[simp] theorem putDebounceTs_hist (t : BitVec w) : (putDebounceTs t s).hist = s.hist := rfl
@[simp] theorem putDebounceTs_flags (t : BitVec w) : (putDebounceTs t s).flags = s.flags := rfl
@[simp] theorem putDebounceTs_btn (t : BitVec w) : (putDebounceTs t s).btn = s.btn := rfl
@[simp] theorem putDebounceTs_debounceTs (t : BitVec w) : (putDebounceTs t s).debounceTs = t := rfl
@[simp] theorem putDebounceTs_lastClick (t : BitVec w) : (putDebounceTs t s).lastClick = s.lastClick := rfl
@[simp] theorem putDebounceTs_qaPrev (t : BitVec w) : (putDebounceTs t s).qaPrev = s.qaPrev := rfl
@[simp] theorem putDebounceTs_qbPrev (t : BitVec w) : (putDebounceTs t s).qbPrev = s.qbPrev := rfl
@[simp] theorem putDebounceTs_btnPrev (t : BitVec w) : (putDebounceTs t s).btnPrev = s.btnPrev := rfl
@[simp] theorem putDebounceTs_capture (t : BitVec w) : (putDebounceTs t s).capture = s.capture := rfl
@[simp] theorem putDebounceTs_hasButton (t : BitVec w) : (putDebounceTs t s).hasButton = s.hasButton := rfl
@[simp] theorem putDebounceTs_response (t : BitVec w) : (putDebounceTs t s).response = s.response := rfl
@[simp] theorem putDebounceTs_now (t : BitVec w) : (putDebounceTs t s).now = s.now := rfl
@[simp] theorem putDebounceTs_stimulus (t : BitVec w) : (putDebounceTs t s).stimulus = s.stimulus := rfl
@[simp] theorem putDebounceTs_draws (t : BitVec w) : (putDebounceTs t s).draws = s.draws := rfl

/-! ### putLastClick -/

@[simp] theorem putLastClick_position (t : BitVec w) : (putLastClick t s).position = s.position := rfl
@[simp] theorem putLastClick_delta (t : BitVec w) : (putLastClick t s).delta = s.delta := rfl
@[simp] theorem putLastClick_hist (t : BitVec w) : (putLastClick t s).hist = s.hist := rfl
@[simp] theorem putLastClick_flags (t : BitVec w) : (putLastClick t s).flags = s.flags := rfl
@[simp] theorem putLastClick_btn (t : BitVec w) : (putLastClick t s).btn = s.btn := rfl
@[simp] theorem putLastClick_debounceTs (t : BitVec w) : (putLastClick t s).debounceTs = s.debounceTs := rfl
@[simp] theorem putLastClick_lastClick (t : BitVec w) : (putLastClick t s).lastClick = t := rfl
@[simp] theorem putLastClick_qaPrev (t : BitVec w) : (putLastClick t s).qaPrev = s.qaPrev := rfl
@[simp] theorem putLastClick_qbPrev (t : BitVec w) : (putLastClick t s).qbPrev = s.qbPrev := rfl
@[simp] theorem putLastClick_btnPrev (t : BitVec w) : (putLastClick t s).btnPrev = s.btnPrev := rfl
@[simp] theorem putLastClick_capture (t : BitVec w) : (putLastClick t s).capture = s.capture := rfl
@[simp] theorem putLastClick_hasButton (t : BitVec w) : (putLastClick t s).hasButton = s.hasButton := rfl
@[simp] theorem putLastClick_response (t : BitVec w) : (putLastClick t s).response = s.response := rfl
@[simp] theorem putLastClick_now (t : BitVec w) : (putLastClick t s).now = s.now := rfl
@[simp] theorem putLastClick_stimulus (t : BitVec w) : (putLastClick t s).stimulus = s.stimulus := rfl
@[simp] theorem putLastClick_draws (t : BitVec w) : (putLastClick t s).draws = s.draws := rfl

/-! ### respond -/

@[simp] theorem respond_position (v : Half) (e : Bool) : (respond v e s).position = s.position := rfl
@[simp] theorem respond_delta (v : Half) (e : Bool) : (respond v e s).delta = s.delta := rfl
@[simp] theorem respond_hist (v : Half) (e : Bool) : (respond v e s).hist = s.hist := rfl
@[simp] theorem respond_flags (v : Half) (e : Bool) : (respond v e s).flags = s.flags := rfl
@[simp] theorem respond_btn (v : Half) (e : Bool) : (respond v e s).btn = s.btn := rfl
@[simp] theorem respond_debounceTs (v : Half) (e : Bool) : (respond v e s).debounceTs = s.debounceTs := rfl
@[simp] theorem respond_lastClick (v : Half) (e : Bool) : (respond v e s).lastClick = s.lastClick := rfl
@[simp] theorem respond_qaPrev (v : Half) (e : Bool) : (respond v e s).qaPrev = s.qaPrev := rfl
@[simp] theorem respond_qbPrev (v : Half) (e : Bool) : (respond v e s).qbPrev = s.qbPrev := rfl
@[simp] theorem respond_btnPrev (v : Half) (e : Bool) : (respond v e s).btnPrev = s.btnPrev := rfl
@[simp] theorem respond_capture (v : Half) (e : Bool) : (respond v e s).capture = s.capture := rfl
@[simp] theorem respond_hasButton (v : Half) (e : Bool) : (respond v e s).hasButton = s.hasButton := rfl
@[simp] theorem respond_response (v : Half) (e : Bool) : (respond v e s).response = some ⟨e, v⟩ := rfl
@[simp] theorem respond_now (v : Half) (e : Bool) : (respond v e s).now = s.now := rfl
@[simp] theorem respond_stimulus (v : Half) (e : Bool) : (respond v e s).stimulus = s.stimulus := rfl
@[simp] theorem respond_draws (v : Half) (e : Bool) : (respond v e s).draws = s.draws := rfl

/-! ### beginCycle -/

@[simp] theorem beginCycle_position (c : CycleInput.At w) : (beginCycle c s).position = s.position := rfl
@[simp] theorem beginCycle_delta (c : CycleInput.At w) : (beginCycle c s).delta = s.delta := rfl
@[simp] theorem beginCycle_hist (c : CycleInput.At w) : (beginCycle c s).hist = s.hist := rfl
@[simp] theorem beginCycle_flags (c : CycleInput.At w) : (beginCycle c s).flags = s.flags := rfl
@[simp] theorem beginCycle_btn (c : CycleInput.At w) : (beginCycle c s).btn = s.btn := rfl
@[simp] theorem beginCycle_debounceTs (c : CycleInput.At w) : (beginCycle c s).debounceTs = s.debounceTs := rfl
@[simp] theorem beginCycle_lastClick (c : CycleInput.At w) : (beginCycle c s).lastClick = s.lastClick := rfl
@[simp] theorem beginCycle_qaPrev (c : CycleInput.At w) : (beginCycle c s).qaPrev = s.qaPrev := rfl
@[simp] theorem beginCycle_qbPrev (c : CycleInput.At w) : (beginCycle c s).qbPrev = s.qbPrev := rfl
@[simp] theorem beginCycle_btnPrev (c : CycleInput.At w) : (beginCycle c s).btnPrev = s.btnPrev := rfl
@[simp] theorem beginCycle_capture (c : CycleInput.At w) : (beginCycle c s).capture = s.capture := rfl
@[simp] theorem beginCycle_hasButton (c : CycleInput.At w) : (beginCycle c s).hasButton = s.hasButton := rfl
@[simp] theorem beginCycle_response (c : CycleInput.At w) : (beginCycle c s).response = none := rfl
@[simp] theorem beginCycle_now (c : CycleInput.At w) : (beginCycle c s).now = c.now := rfl
@[simp] theorem beginCycle_stimulus (c : CycleInput.At w) : (beginCycle c s).stimulus = s.stimulus := rfl
@[simp] theorem beginCycle_draws (c : CycleInput.At w) : (beginCycle c s).draws = s.draws := rfl

/-! ### latchLevels -/

@[simp] theorem latchLevels_position (c : CycleInput.At w) : (latchLevels c s).position = s.position := rfl
@[simp] theorem latchLevels_delta (c : CycleInput.At w) : (latchLevels c s).delta = s.delta := rfl
@[simp] theorem latchLevels_hist (c : CycleInput.At w) : (latchLevels c s).hist = s.hist := rfl
@[simp] theorem latchLevels_flags (c : CycleInput.At w) : (latchLevels c s).flags = s.flags := rfl
@[simp] theorem latchLevels_btn (c : CycleInput.At w) : (latchLevels c s).btn = s.btn := rfl
@[simp] theorem latchLevels_debounceTs (c : CycleInput.At w) : (latchLevels c s).debounceTs = s.debounceTs := rfl
@[simp] theorem latchLevels_lastClick (c : CycleInput.At w) : (latchLevels c s).lastClick = s.lastClick := rfl
@[simp] theorem latchLevels_qaPrev (c : CycleInput.At w) : (latchLevels c s).qaPrev = c.qa := rfl
@[simp] theorem latchLevels_qbPrev (c : CycleInput.At w) : (latchLevels c s).qbPrev = c.qb := rfl
@[simp] theorem latchLevels_btnPrev (c : CycleInput.At w) : (latchLevels c s).btnPrev = c.btnIn := rfl
@[simp] theorem latchLevels_capture (c : CycleInput.At w) : (latchLevels c s).capture = false := rfl
@[simp] theorem latchLevels_hasButton (c : CycleInput.At w) : (latchLevels c s).hasButton = s.hasButton := rfl
@[simp] theorem latchLevels_response (c : CycleInput.At w) : (latchLevels c s).response = s.response := rfl
@[simp] theorem latchLevels_now (c : CycleInput.At w) : (latchLevels c s).now = s.now := rfl
@[simp] theorem latchLevels_stimulus (c : CycleInput.At w) : (latchLevels c s).stimulus = s.stimulus := rfl
@[simp] theorem latchLevels_draws (c : CycleInput.At w) : (latchLevels c s).draws = s.draws := rfl

/-! ### The shared operations that go through putFlags -/

@[simp] theorem raiseFlag_position (f : Flag) : (raiseFlag f s).position = s.position := rfl
@[simp] theorem raiseFlag_delta (f : Flag) : (raiseFlag f s).delta = s.delta := rfl
@[simp] theorem raiseFlag_hist (f : Flag) : (raiseFlag f s).hist = s.hist := rfl
@[simp] theorem raiseFlag_flags (f : Flag) : (raiseFlag f s).flags = setFlag f s.flags := rfl
@[simp] theorem raiseFlag_btn (f : Flag) : (raiseFlag f s).btn = s.btn := rfl
@[simp] theorem raiseFlag_debounceTs (f : Flag) : (raiseFlag f s).debounceTs = s.debounceTs := rfl
@[simp] theorem raiseFlag_lastClick (f : Flag) : (raiseFlag f s).lastClick = s.lastClick := rfl
@[simp] theorem raiseFlag_qaPrev (f : Flag) : (raiseFlag f s).qaPrev = s.qaPrev := rfl
@[simp] theorem raiseFlag_qbPrev (f : Flag) : (raiseFlag f s).qbPrev = s.qbPrev := rfl
@[simp] theorem raiseFlag_btnPrev (f : Flag) : (raiseFlag f s).btnPrev = s.btnPrev := rfl
@[simp] theorem raiseFlag_capture (f : Flag) : (raiseFlag f s).capture = s.capture := rfl
@[simp] theorem raiseFlag_hasButton (f : Flag) : (raiseFlag f s).hasButton = s.hasButton := rfl
@[simp] theorem raiseFlag_response (f : Flag) : (raiseFlag f s).response = s.response := rfl
@[simp] theorem raiseFlag_now (f : Flag) : (raiseFlag f s).now = s.now := rfl
@[simp] theorem raiseFlag_stimulus (f : Flag) : (raiseFlag f s).stimulus = s.stimulus := rfl
@[simp] theorem raiseFlag_draws (f : Flag) : (raiseFlag f s).draws = s.draws := rfl

@[simp] theorem dropFlag_position (f : Flag) : (dropFlag f s).position = s.position := rfl
@[simp] theorem dropFlag_delta (f : Flag) : (dropFlag f s).delta = s.delta := rfl
@[simp] theorem dropFlag_hist (f : Flag) : (dropFlag f s).hist = s.hist := rfl
@[simp] theorem dropFlag_flags (f : Flag) : (dropFlag f s).flags = clearFlag f s.flags := rfl
@[simp] theorem dropFlag_btn (f : Flag) : (dropFlag f s).btn = s.btn := rfl
@[simp] theorem dropFlag_debounceTs (f : Flag) : (dropFlag f s).debounceTs = s.debounceTs := rfl
@[simp] theorem dropFlag_lastClick (f : Flag) : (dropFlag f s).lastClick = s.lastClick := rfl
@[simp] theorem dropFlag_qaPrev (f : Flag) : (dropFlag f s).qaPrev = s.qaPrev := rfl
@[simp] theorem dropFlag_qbPrev (f : Flag) : (dropFlag f s).qbPrev = s.qbPrev := rfl
@[simp] theorem dropFlag_btnPrev (f : Flag) : (dropFlag f s).btnPrev = s.btnPrev := rfl
@[simp] theorem dropFlag_capture (f : Flag) : (dropFlag f s).capture = s.capture := rfl
@[simp] theorem dropFlag_hasButton (f : Flag) : (dropFlag f s).hasButton = s.hasButton := rfl
@[simp] theorem dropFlag_response (f : Flag) : (dropFlag f s).response = s.response := rfl
@[simp] theorem dropFlag_now (f : Flag) : (dropFlag f s).now = s.now := rfl
@[simp] theorem dropFlag_stimulus (f : Flag) : (dropFlag f s).stimulus = s.stimulus := rfl
@[simp] theorem dropFlag_draws (f : Flag) : (dropFlag f s).draws = s.draws := rfl

/-! ### The reset state, for every width and for this hardware -/

@[simp] theorem resetAt_position : (State.resetAt w).position = 0 := rfl
@[simp] theorem resetAt_delta : (State.resetAt w).delta = 0 := rfl
@[simp] theorem resetAt_hist : (State.resetAt w).hist = 0 := rfl
@[simp] theorem resetAt_flags : (State.resetAt w).flags = 0 := rfl
@[simp] theorem resetAt_btn : (State.resetAt w).btn = .released := rfl
@[simp] theorem resetAt_debounceTs : (State.resetAt w).debounceTs = 0 := rfl
@[simp] theorem resetAt_lastClick : (State.resetAt w).lastClick = 0 := rfl
@[simp] theorem resetAt_qaPrev : (State.resetAt w).qaPrev = true := rfl
@[simp] theorem resetAt_qbPrev : (State.resetAt w).qbPrev = true := rfl
@[simp] theorem resetAt_btnPrev : (State.resetAt w).btnPrev = true := rfl
@[simp] theorem resetAt_capture : (State.resetAt w).capture = true := rfl
@[simp] theorem resetAt_hasButton : (State.resetAt w).hasButton = true := rfl
@[simp] theorem resetAt_response : (State.resetAt w).response = none := rfl
@[simp] theorem resetAt_now : (State.resetAt w).now = 0 := rfl
@[simp] theorem resetAt_stimulus : (State.resetAt w).stimulus = [] := rfl
@[simp] theorem resetAt_draws : (State.resetAt w).draws = 0 := rfl

@[simp] theorem reset_position : State.reset.position = 0 := rfl
@[simp] theorem reset_delta : State.reset.delta = 0 := rfl
@[simp] theorem reset_hist : State.reset.hist = 0 := rfl
@[simp] theorem reset_flags : State.reset.flags = 0 := rfl
@[simp] theorem reset_btn : State.reset.btn = .released := rfl
@[simp] theorem reset_debounceTs : State.reset.debounceTs = 0 := rfl
@[simp] theorem reset_lastClick : State.reset.lastClick = 0 := rfl
@[simp] theorem reset_qaPrev : State.reset.qaPrev = true := rfl
@[simp] theorem reset_qbPrev : State.reset.qbPrev = true := rfl
@[simp] theorem reset_btnPrev : State.reset.btnPrev = true := rfl
@[simp] theorem reset_capture : State.reset.capture = true := rfl
@[simp] theorem reset_hasButton : State.reset.hasButton = true := rfl
@[simp] theorem reset_response : State.reset.response = none := rfl
@[simp] theorem reset_now : State.reset.now = 0 := rfl
@[simp] theorem reset_stimulus : State.reset.stimulus = [] := rfl
@[simp] theorem reset_draws : State.reset.draws = 0 := rfl

/-- Two states are equal when their fields are. -/
theorem state_ext {a b : State.At w}
    (h1 : a.position = b.position)
    (h2 : a.delta = b.delta)
    (h3 : a.hist = b.hist)
    (h4 : a.flags = b.flags)
    (h5 : a.btn = b.btn)
    (h6 : a.debounceTs = b.debounceTs)
    (h7 : a.lastClick = b.lastClick)
    (h8 : a.qaPrev = b.qaPrev)
    (h9 : a.qbPrev = b.qbPrev)
    (h10 : a.btnPrev = b.btnPrev)
    (h11 : a.capture = b.capture)
    (h12 : a.hasButton = b.hasButton)
    (h13 : a.response = b.response)
    (h14 : a.now = b.now)
    (h15 : a.stimulus = b.stimulus)
    (h16 : a.draws = b.draws) : a = b := by
  cases a
  cases b
  simp_all

end Sys2Proof.Machine
end

