-- ==== Sys2Proof/Laws/Effect.lean ====
section
/-! SUPPORT. What each shared operation, instruction and cycle does, said once: every transaction has one next state, given
here as a plain function of the state, with its frame. -/

namespace Sys2Proof.Machine

variable {w : Nat}

@[simp] theorem andThen_next (s : State.At w) (f : State.At w → OutcomeAt w) :
    andThen (.next s) f = f s := rfl

@[simp] theorem boolData_true : boolData true = 1 := by decide

@[simp] theorem boolData_false : boolData false = 0 := by decide

/-- The debounce comparison as one of naturals (R132). -/
theorem insideDebounce_iff {w : Nat} (now since : BitVec w) :
    insideDebounce now since = true ↔ (now - since).toNat < 10000 := by
  unfold insideDebounce timeSince Config.debounceUs
  exact decide_eq_true_iff

/-- The double-click comparison as one of naturals (R132). -/
theorem insideDoubleClick_iff {w : Nat} (now since : BitVec w) :
    insideDoubleClick now since = true ↔ (now - since).toNat ≤ 500000 := by
  unfold insideDoubleClick timeSince Config.dblclickUs
  exact decide_eq_true_iff

/-- An edge is accepted when the button is enabled and at least DEBOUNCE_US have passed (R131, R132). -/
theorem edgeAccepted_iff (s : State.At w) :
    edgeAccepted s = true ↔ s.hasButton = true ∧ 10000 ≤ (s.now - s.debounceTs).toNat := by
  have := insideDebounce_iff s.now s.debounceTs
  simp only [edgeAccepted, Bool.and_eq_true, Bool.not_eq_true', ← Bool.not_eq_true, this, not_lt]

/-- The three histories a QSAMPLE can leave (R103, R110). -/
theorem matchTurn_cases (h : BitVec 8) :
    (h = 0x4B#8 ∧ matchTurn h = some .cw) ∨ (h = 0x87#8 ∧ matchTurn h = some .ccw) ∨
      (h ≠ 0x4B#8 ∧ h ≠ 0x87#8 ∧ matchTurn h = none) := by
  by_cases h1 : h = 0x4B#8
  · subst h1; exact .inl ⟨rfl, by decide⟩
  · by_cases h2 : h = 0x87#8
    · subst h2; exact .inr (.inl ⟨rfl, by decide⟩)
    · exact .inr (.inr ⟨h1, h2, by simp [matchTurn, Config.patCw, Config.patCcw, h1, h2]⟩)

/-- The shift as arithmetic on naturals (R103). -/
theorem shiftHist_toNat (h : BitVec 8) (sym : BitVec 2) :
    (shiftHist h sym).toNat = (h.toNat * 4 + sym.toNat) % 256 := by
  revert h sym; decide

/-- A history of another value than the two patterns matches neither (R103). -/
theorem matchTurn_none_of_toNat {h : BitVec 8} (h1 : h.toNat ≠ 75) (h2 : h.toNat ≠ 135) : matchTurn h = none := by
  rcases matchTurn_cases h with ⟨e, -⟩ | ⟨e, -⟩ | ⟨-, -, e⟩
  · exact absurd (congrArg BitVec.toNat e) h1
  · exact absurd (congrArg BitVec.toNat e) h2
  · exact e

/-! ## The effect of an instruction -/

/-- QSAMPLE's next state (R103). -/
def sampleEffect (sym : BitVec 2) (s : State.At w) : State.At w :=
  let shifted := putHist (shiftHist s.hist sym) s
  match matchTurn shifted.hist with
  | some t => applyTurn t shifted
  | none => shifted

/-- BEDGE's next state (R132). -/
def edgeEffect (s : State.At w) : State.At w := if edgeAccepted s then acceptEdge s else s

/-- The next state of each instruction. -/
def effect : Instr → State.At w → State.At w
  | .getCount, s => respond s.position false s
  | .setCount v, s => respond 0 false (putPosition v s)
  | .getDiff clr, s => respond s.delta false (if clr then putDelta 0 s else s)
  | .isMoved clr, s => readFlagCommand .moved clr s
  | .isPressed clr, s => readFlagCommand .pressed clr s
  | .isClicked clr, s => readFlagCommand .clicked clr s
  | .isDoubleClicked clr, s => readFlagCommand .doubleClicked clr s
  | .clear, s => respond 0 false (putFlags clearedFlags s)
  | .qsample sym, s => sampleEffect sym s
  | .bedge, s => edgeEffect s

/-- Executing an instruction is its effect. -/
theorem exec_eq (i : Instr) (s : State) : exec i s = .next (effect i s) := by
  cases i with
  | qsample sym =>
    simp only [exec, execQsample, effect, sampleEffect]
    cases matchTurn (putHist (shiftHist s.hist sym) s).hist <;> rfl
  | bedge =>
    simp only [exec, execBedge, effect, edgeEffect]
    split <;> rfl
  | _ => rfl

/-- The same for every `TS_W` (R10). -/
theorem execAt_eq (i : Instr) (s : State.At w) : execAt i s = .next (effect i s) := by
  cases i with
  | qsample sym =>
    simp only [execAt, execQsample, effect, sampleEffect]
    cases matchTurn (putHist (shiftHist s.hist sym) s).hist <;> rfl
  | bedge =>
    simp only [execAt, execBedge, effect, edgeEffect]
    split <;> rfl
  | _ => rfl

/-- A next state of exec is the effect. -/
theorem exec_next {i : Instr} {s t : State} (h : exec i s = .next t) : t = effect i s := by
  rw [exec_eq] at h
  exact (Host.Outcome.next.inj h).symm

/-- QSAMPLE field by field: only HIST, POSITION, DELTA and Moved move (R104). -/
theorem sampleEffect_frame (sym : BitVec 2) (s : State.At w) :
    sampleEffect sym s = { s with
      hist := shiftHist s.hist sym
      position := (sampleEffect sym s).position
      delta := (sampleEffect sym s).delta
      flags := (sampleEffect sym s).flags } := by
  simp only [sampleEffect]
  split <;> rfl

/-- A QSAMPLE that matches neither pattern shifts HIST and changes nothing else (R103, R105). -/
theorem sampleEffect_of_none {sym : BitVec 2} {s : State.At w} (h : matchTurn (shiftHist s.hist sym) = none) :
    sampleEffect sym s = { s with hist := shiftHist s.hist sym } := by
  simp only [sampleEffect, putHist_hist, h]
  rfl

/-- A QSAMPLE that matches a pattern counts an indent (R103). -/
theorem sampleEffect_of_some {sym : BitVec 2} {s : State.At w} {d : Turn} (h : matchTurn (shiftHist s.hist sym) = some d) :
    sampleEffect sym s = { s with
      hist := shiftHist s.hist sym
      position := countTurn d s.position
      delta := countTurn d s.delta
      flags := setFlag .moved s.flags } := by
  simp only [sampleEffect, putHist_hist, h]
  rfl

/-- BEDGE field by field: only DEBOUNCE_TS, BTN, LAST_CLICK and flags move (R135). -/
theorem edgeEffect_frame (s : State.At w) :
    edgeEffect s = { s with
      debounceTs := (edgeEffect s).debounceTs
      btn := (edgeEffect s).btn
      lastClick := (edgeEffect s).lastClick
      flags := (edgeEffect s).flags } := by
  unfold edgeEffect acceptEdge
  split
  · split
    · unfold releaseEdge
      by_cases h : insideDoubleClick s.now s.lastClick <;>
        simp [h, putLastClick, raiseFlag, putFlags, putBtn, putDebounceTs]
    · rfl
  · rfl

/-! ### QSAMPLE field by field: it does not expand the state, so it chains -/

@[simp] theorem sampleEffect_hist (sym : BitVec 2) (s : State.At w) :
    (sampleEffect sym s).hist = shiftHist s.hist sym := by rw [sampleEffect_frame]

theorem sampleEffect_position (sym : BitVec 2) (s : State.At w) :
    (sampleEffect sym s).position = ((matchTurn (shiftHist s.hist sym)).map (countTurn · s.position)).getD s.position := by
  simp only [sampleEffect, putHist_hist]
  split <;> simp_all [applyTurn]

theorem sampleEffect_delta (sym : BitVec 2) (s : State.At w) :
    (sampleEffect sym s).delta = ((matchTurn (shiftHist s.hist sym)).map (countTurn · s.delta)).getD s.delta := by
  simp only [sampleEffect, putHist_hist]
  split <;> simp_all [applyTurn]

@[simp] theorem sampleEffect_btn (sym : BitVec 2) (s : State.At w) : (sampleEffect sym s).btn = s.btn := by
  rw [sampleEffect_frame]

@[simp] theorem sampleEffect_debounceTs (sym : BitVec 2) (s : State.At w) : (sampleEffect sym s).debounceTs = s.debounceTs := by
  rw [sampleEffect_frame]

@[simp] theorem sampleEffect_lastClick (sym : BitVec 2) (s : State.At w) : (sampleEffect sym s).lastClick = s.lastClick := by
  rw [sampleEffect_frame]

@[simp] theorem sampleEffect_qaPrev (sym : BitVec 2) (s : State.At w) : (sampleEffect sym s).qaPrev = s.qaPrev := by
  rw [sampleEffect_frame]

@[simp] theorem sampleEffect_qbPrev (sym : BitVec 2) (s : State.At w) : (sampleEffect sym s).qbPrev = s.qbPrev := by
  rw [sampleEffect_frame]

@[simp] theorem sampleEffect_btnPrev (sym : BitVec 2) (s : State.At w) : (sampleEffect sym s).btnPrev = s.btnPrev := by
  rw [sampleEffect_frame]

@[simp] theorem sampleEffect_capture (sym : BitVec 2) (s : State.At w) : (sampleEffect sym s).capture = s.capture := by
  rw [sampleEffect_frame]

@[simp] theorem sampleEffect_hasButton (sym : BitVec 2) (s : State.At w) : (sampleEffect sym s).hasButton = s.hasButton := by
  rw [sampleEffect_frame]

@[simp] theorem sampleEffect_response (sym : BitVec 2) (s : State.At w) : (sampleEffect sym s).response = s.response := by
  rw [sampleEffect_frame]

@[simp] theorem sampleEffect_now (sym : BitVec 2) (s : State.At w) : (sampleEffect sym s).now = s.now := by
  rw [sampleEffect_frame]

@[simp] theorem sampleEffect_stimulus (sym : BitVec 2) (s : State.At w) : (sampleEffect sym s).stimulus = s.stimulus := by
  rw [sampleEffect_frame]

@[simp] theorem sampleEffect_draws (sym : BitVec 2) (s : State.At w) : (sampleEffect sym s).draws = s.draws := by
  rw [sampleEffect_frame]

/-! ### BEDGE field by field -/

@[simp] theorem edgeEffect_position (s : State.At w) : (edgeEffect s).position = s.position := by
  rw [edgeEffect_frame]

@[simp] theorem edgeEffect_delta (s : State.At w) : (edgeEffect s).delta = s.delta := by
  rw [edgeEffect_frame]

@[simp] theorem edgeEffect_hist (s : State.At w) : (edgeEffect s).hist = s.hist := by
  rw [edgeEffect_frame]

@[simp] theorem edgeEffect_qaPrev (s : State.At w) : (edgeEffect s).qaPrev = s.qaPrev := by
  rw [edgeEffect_frame]

@[simp] theorem edgeEffect_qbPrev (s : State.At w) : (edgeEffect s).qbPrev = s.qbPrev := by
  rw [edgeEffect_frame]

@[simp] theorem edgeEffect_btnPrev (s : State.At w) : (edgeEffect s).btnPrev = s.btnPrev := by
  rw [edgeEffect_frame]

@[simp] theorem edgeEffect_capture (s : State.At w) : (edgeEffect s).capture = s.capture := by
  rw [edgeEffect_frame]

@[simp] theorem edgeEffect_hasButton (s : State.At w) : (edgeEffect s).hasButton = s.hasButton := by
  rw [edgeEffect_frame]

@[simp] theorem edgeEffect_response (s : State.At w) : (edgeEffect s).response = s.response := by
  rw [edgeEffect_frame]

@[simp] theorem edgeEffect_now (s : State.At w) : (edgeEffect s).now = s.now := by
  rw [edgeEffect_frame]

@[simp] theorem edgeEffect_stimulus (s : State.At w) : (edgeEffect s).stimulus = s.stimulus := by
  rw [edgeEffect_frame]

@[simp] theorem edgeEffect_draws (s : State.At w) : (edgeEffect s).draws = s.draws := by
  rw [edgeEffect_frame]

theorem edgeEffect_btn (s : State.At w) :
    (edgeEffect s).btn = if edgeAccepted s then otherButton s.btn else s.btn := by
  unfold edgeEffect acceptEdge
  by_cases ha : edgeAccepted s
  · cases hb : s.btn
    · simp [ha, pressEdge, otherButton]
    · by_cases hd : insideDoubleClick s.now s.lastClick <;> simp [ha, releaseEdge, hd, otherButton]
  · simp [ha]

theorem edgeEffect_debounceTs (s : State.At w) :
    (edgeEffect s).debounceTs = if edgeAccepted s then s.now else s.debounceTs := by
  unfold edgeEffect acceptEdge
  by_cases ha : edgeAccepted s
  · cases hb : s.btn
    · simp [ha, pressEdge]
    · by_cases hd : insideDoubleClick s.now s.lastClick <;> simp [ha, releaseEdge, hd]
  · simp [ha]

theorem edgeEffect_lastClick (s : State.At w) :
    (edgeEffect s).lastClick = if edgeAccepted s = true ∧ s.btn = .pressed then s.now else s.lastClick := by
  unfold edgeEffect acceptEdge
  by_cases ha : edgeAccepted s
  · cases hb : s.btn <;> simp [ha, pressEdge, releaseEdge]
  · simp [ha]

/-! ### Flag reads field by field -/

@[simp] theorem readFlagCommand_position (f : Flag) (clr : Bool) (s : State.At w) : (readFlagCommand f clr s).position = s.position := by
  cases clr <;> rfl

@[simp] theorem readFlagCommand_delta (f : Flag) (clr : Bool) (s : State.At w) : (readFlagCommand f clr s).delta = s.delta := by
  cases clr <;> rfl

@[simp] theorem readFlagCommand_hist (f : Flag) (clr : Bool) (s : State.At w) : (readFlagCommand f clr s).hist = s.hist := by
  cases clr <;> rfl

@[simp] theorem readFlagCommand_btn (f : Flag) (clr : Bool) (s : State.At w) : (readFlagCommand f clr s).btn = s.btn := by
  cases clr <;> rfl

@[simp] theorem readFlagCommand_debounceTs (f : Flag) (clr : Bool) (s : State.At w) : (readFlagCommand f clr s).debounceTs = s.debounceTs := by
  cases clr <;> rfl

@[simp] theorem readFlagCommand_lastClick (f : Flag) (clr : Bool) (s : State.At w) : (readFlagCommand f clr s).lastClick = s.lastClick := by
  cases clr <;> rfl

@[simp] theorem readFlagCommand_qaPrev (f : Flag) (clr : Bool) (s : State.At w) : (readFlagCommand f clr s).qaPrev = s.qaPrev := by
  cases clr <;> rfl

@[simp] theorem readFlagCommand_qbPrev (f : Flag) (clr : Bool) (s : State.At w) : (readFlagCommand f clr s).qbPrev = s.qbPrev := by
  cases clr <;> rfl

@[simp] theorem readFlagCommand_btnPrev (f : Flag) (clr : Bool) (s : State.At w) : (readFlagCommand f clr s).btnPrev = s.btnPrev := by
  cases clr <;> rfl

@[simp] theorem readFlagCommand_capture (f : Flag) (clr : Bool) (s : State.At w) : (readFlagCommand f clr s).capture = s.capture := by
  cases clr <;> rfl

@[simp] theorem readFlagCommand_hasButton (f : Flag) (clr : Bool) (s : State.At w) : (readFlagCommand f clr s).hasButton = s.hasButton := by
  cases clr <;> rfl

@[simp] theorem readFlagCommand_now (f : Flag) (clr : Bool) (s : State.At w) : (readFlagCommand f clr s).now = s.now := by
  cases clr <;> rfl

@[simp] theorem readFlagCommand_stimulus (f : Flag) (clr : Bool) (s : State.At w) : (readFlagCommand f clr s).stimulus = s.stimulus := by
  cases clr <;> rfl

@[simp] theorem readFlagCommand_draws (f : Flag) (clr : Bool) (s : State.At w) : (readFlagCommand f clr s).draws = s.draws := by
  cases clr <;> rfl

@[simp] theorem readFlagCommand_response (f : Flag) (clr : Bool) (s : State.At w) :
    (readFlagCommand f clr s).response = some ⟨false, boolData (readFlag f s.flags)⟩ := rfl

theorem readFlagCommand_flags (f g : Flag) (clr : Bool) (s : State.At w) :
    readFlag g (readFlagCommand f clr s).flags = (!(clr && decide (g = f)) && readFlag g s.flags) := by
  cases clr <;> simp [readFlagCommand]

/-! ### Flags -/

/-- No flag falls in a QSAMPLE, and only Moved can rise (R104). -/
theorem sampleEffect_flags (sym : BitVec 2) (s : State.At w) (f : Flag) :
    readFlag f (sampleEffect sym s).flags =
      (readFlag f s.flags || (decide (f = .moved) && (matchTurn (shiftHist s.hist sym)).isSome)) := by
  simp only [sampleEffect, putHist_hist]
  split
  next t h => simp [applyTurn, h, Bool.or_comm]
  next h => simp [h]

/-- Which flags rise in an accepted edge (R133, R134). -/
def edgeRaises (s : State.At w) (f : Flag) : Bool :=
  edgeAccepted s &&
    match s.btn, f with
    | .released, .pressed => true
    | .pressed, .clicked => true
    | .pressed, .doubleClicked => insideDoubleClick s.now s.lastClick
    | _, _ => false

/-- The flags that rise in an accepted release (R133). -/
theorem edgeRaises_release {s : State.At w} (ha : edgeAccepted s = true) (hb : s.btn = .pressed) :
    edgeRaises s .pressed = false ∧ edgeRaises s .clicked = true ∧
      edgeRaises s .doubleClicked = insideDoubleClick s.now s.lastClick := by
  unfold edgeRaises
  rw [ha, hb]
  simp

/-- The flag that rises in an accepted press (R134). -/
theorem edgeRaises_press {s : State.At w} (ha : edgeAccepted s = true) (hb : s.btn = .released) :
    edgeRaises s .pressed = true ∧ edgeRaises s .clicked = false ∧ edgeRaises s .doubleClicked = false := by
  unfold edgeRaises
  rw [ha, hb]
  simp

/-- Moved never rises in a BEDGE (R135). -/
@[simp] theorem edgeRaises_moved (s : State.At w) : edgeRaises s .moved = false := by
  unfold edgeRaises
  cases s.btn <;> simp

/-- No flag falls in a BEDGE (R135). -/
theorem edgeEffect_flags (s : State.At w) (f : Flag) :
    readFlag f (edgeEffect s).flags = (readFlag f s.flags || edgeRaises s f) := by
  unfold edgeEffect edgeRaises acceptEdge
  by_cases ha : edgeAccepted s
  · cases hb : s.btn
    · cases f <;> simp [ha, pressEdge]
    · unfold releaseEdge
      by_cases hd : insideDoubleClick s.now s.lastClick <;> cases f <;> simp [ha, hd]
  · simp [ha]

/-! ## The effect of a cycle -/

/-- The state after the host command of a cycle. -/
def commandEffect (c : CycleInput.At w) (s : State.At w) : State.At w :=
  match c.command with
  | none => s
  | some word =>
    match decodeCommand word with
    | .ok i => effect i s
    | .error _ => respondIllegal s

/-- The state after an event of a cycle. -/
def eventEffect (i : Option Instr) (s : State.At w) : State.At w :=
  match i with
  | none => s
  | some j => effect j s

/-- The host command of a cycle, whatever runs an instruction as its effect. -/
theorem takeCommand_eq {run : Instr → State.At w → OutcomeAt w} (hr : ∀ i s, run i s = .next (effect i s))
    (c : CycleInput.At w) (s : State.At w) : takeCommand run c s = .next (commandEffect c s) := by
  unfold takeCommand commandEffect
  rcases c.command with _ | word
  · rfl
  · rcases h : decodeCommand word with e | i
    · simp [h]
    · simp [h, hr]

/-- An event of a cycle, likewise. -/
theorem takeEvent_eq {run : Instr → State.At w → OutcomeAt w} (hr : ∀ i s, run i s = .next (effect i s))
    (i : Option Instr) (s : State.At w) : takeEvent run i s = .next (eventEffect i s) := by
  unfold takeEvent eventEffect
  cases i with
  | none => rfl
  | some j => exact hr _ _

/-- The state after a cycle with inputs `c`. -/
def cycleEffect (c : CycleInput.At w) (s : State.At w) : State.At w :=
  if c.rst then resetCycle c s
  else
    latchLevels c
      (eventEffect (edgeOf (presentedWords c s))
        (eventEffect (sampleOf (presentedWords c s)) (commandEffect c (beginCycle c s))))

/-- A whole cycle, likewise. -/
theorem clockCycle_eq {run : Instr → State.At w → OutcomeAt w} (hr : ∀ i s, run i s = .next (effect i s))
    (c : CycleInput.At w) (s : State.At w) : clockCycle run c s = .next (cycleEffect c s) := by
  unfold clockCycle cycleEffect
  split
  · rfl
  · simp only [runCycle, takeCommand_eq hr, takeEvent_eq hr, andThen_next]

/-- A step is the effect of the next inputs. -/
theorem step_eq (s : State) : step s = .next (cycleEffect (nextInput s) (takeInput s)) :=
  clockCycle_eq exec_eq _ _

/-- The same for every `TS_W` (R10). -/
theorem stepAt_eq (s : State.At w) : stepAt s = .next (cycleEffect (nextInput s) (takeInput s)) :=
  clockCycle_eq execAt_eq _ _

/-- A next state of step is that effect. -/
theorem step_next {s t : State} (h : step s = .next t) : t = cycleEffect (nextInput s) (takeInput s) := by
  rw [step_eq] at h
  exact (Host.Outcome.next.inj h).symm

/-- Taking the inputs touches only the model's own fields. -/
theorem takeInput_frame (s : State.At w) :
    takeInput s = { s with stimulus := (takeInput s).stimulus, draws := (takeInput s).draws } := by
  unfold takeInput
  split <;> rfl

@[simp] theorem nextInput_cons (s : State.At w) (c : CycleInput.At w) (cs : List (CycleInput.At w)) :
    nextInput { s with stimulus := c :: cs } = c := rfl

@[simp] theorem takeInput_cons (s : State.At w) (c : CycleInput.At w) (cs : List (CycleInput.At w)) :
    takeInput { s with stimulus := c :: cs } = { s with stimulus := cs } := rfl

/-- The next inputs of a stimulus that lists some, and the state once they are taken. -/
theorem nextInput_of_cons {s : State.At w} {c : CycleInput.At w} {cs : List (CycleInput.At w)} (h : s.stimulus = c :: cs) :
    nextInput s = c ∧ takeInput s = { s with stimulus := cs } := by
  simp [nextInput, takeInput, h]

/-- A step on inputs the stimulus lists. -/
theorem step_of_cons {s : State} {c : CycleInput} {cs : List CycleInput} (h : s.stimulus = c :: cs) :
    step s = .next (cycleEffect c { s with stimulus := cs }) := by
  rw [step_eq, (nextInput_of_cons h).1, (nextInput_of_cons h).2]

/-- A step on a cycle that presents exactly a command and event words. -/
theorem step_presenting (s : State) (cmd : Option CommandWord) (ws : List EventWord) (now : Timestamp) :
    step (presenting s cmd ws now) =
      .next (latchLevels (quietInput s cmd ws) (eventEffect (edgeOf ws) (eventEffect (sampleOf ws)
        (commandEffect (quietInput s cmd ws) { s with capture := false, now := now, response := none })))) := by
  rw [step_eq]
  rfl

/-- Taking the inputs moves no field of the block. -/
theorem takeInput_keeps (s : State.At w) :
    (takeInput s).position = s.position ∧ (takeInput s).delta = s.delta ∧ (takeInput s).hist = s.hist ∧
    (takeInput s).flags = s.flags ∧ (takeInput s).btn = s.btn ∧ (takeInput s).debounceTs = s.debounceTs ∧
    (takeInput s).lastClick = s.lastClick ∧ (takeInput s).qaPrev = s.qaPrev ∧ (takeInput s).qbPrev = s.qbPrev ∧
    (takeInput s).btnPrev = s.btnPrev ∧ (takeInput s).capture = s.capture ∧
    (takeInput s).hasButton = s.hasButton ∧ (takeInput s).response = s.response := by
  unfold takeInput
  split <;> simp

/-- No instruction moves the front ends, the configuration or the model's own fields. -/
theorem effect_keeps (i : Instr) (s : State.At w) :
    (effect i s).qaPrev = s.qaPrev ∧ (effect i s).qbPrev = s.qbPrev ∧ (effect i s).btnPrev = s.btnPrev ∧
    (effect i s).capture = s.capture ∧ (effect i s).hasButton = s.hasButton ∧ (effect i s).now = s.now ∧
    (effect i s).stimulus = s.stimulus ∧ (effect i s).draws = s.draws := by
  cases i with
  | qsample sym => simp only [effect]; rw [sampleEffect_frame]; simp
  | bedge => simp only [effect]; rw [edgeEffect_frame]; simp
  | getDiff c => cases c <;> simp [effect]
  | isMoved c => cases c <;> simp [effect, readFlagCommand]
  | isPressed c => cases c <;> simp [effect, readFlagCommand]
  | isClicked c => cases c <;> simp [effect, readFlagCommand]
  | isDoubleClicked c => cases c <;> simp [effect, readFlagCommand]
  | _ => simp [effect]

/-- What a cycle takes as a QSAMPLE is one. -/
theorem sampleOf_eq_some {ws : List EventWord} {i : Instr} (h : sampleOf ws = some i) : ∃ sym, i = .qsample sym := by
  obtain ⟨e, -, he⟩ := List.exists_of_findSome?_eq_some h
  unfold asSample at he
  split at he
  next sym _ => exact ⟨sym, (Option.some.inj he).symm⟩
  next => exact absurd he (by simp)

/-- What a cycle takes as a BEDGE is one. -/
theorem edgeOf_eq_some {ws : List EventWord} {i : Instr} (h : edgeOf ws = some i) : i = .bedge := by
  obtain ⟨e, -, he⟩ := List.exists_of_findSome?_eq_some h
  unfold asEdge at he
  split at he
  next => exact (Option.some.inj he).symm
  next => exact absurd he (by simp)

end Sys2Proof.Machine
end

