-- ==== Sys2Proof/Laws/Cycle.lean ====
section
/-! SUPPORT. What each of the three transactions of a cycle leaves alone, and which events the front ends make. -/

namespace Sys2Proof.Machine

variable {w : Nat}

/-- The host command of a cycle: a defined one, which is no event, or none, or an ILLEGAL word. -/
theorem commandEffect_cases (c : CycleInput.At w) (s : State.At w) :
    (∃ i, (c.command.bind fun w => (decodeCommand w).toOption) = some i ∧ i ≠ .bedge ∧
      (∀ sym, i ≠ .qsample sym) ∧ commandEffect c s = effect i s) ∨
    ((c.command.bind fun w => (decodeCommand w).toOption) = none ∧
      (commandEffect c s = s ∨ commandEffect c s = respondIllegal s)) := by
  have key : ∀ w, (∃ i, decodeCommand w = .ok i ∧ i ≠ .bedge ∧ ∀ sym, i ≠ .qsample sym) ∨
      ∃ e, decodeCommand w = .error e := by
    intro w
    unfold decodeCommand commandIf
    simp only
    split
    · exact .inr ⟨_, rfl⟩
    · split <;> (try split) <;>
        first
        | exact .inr ⟨_, rfl⟩
        | exact .inl ⟨_, rfl, by simp, by simp⟩
  unfold commandEffect
  rcases c.command with _ | w
  · exact .inr ⟨rfl, .inl rfl⟩
  · obtain ⟨i, hd, h1, h2⟩ | ⟨e, hd⟩ := key w
    · exact .inl ⟨i, by simp [hd, Except.toOption], h1, h2, by simp [hd]⟩
    · exact .inr ⟨by simp [hd, Except.toOption], .inr (by simp [hd])⟩

/-- A host command leaves the hidden state and the cycle's time alone. -/
theorem commandEffect_keeps (c : CycleInput.At w) (s : State.At w) :
    (commandEffect c s).hist = s.hist ∧ (commandEffect c s).btn = s.btn ∧
    (commandEffect c s).debounceTs = s.debounceTs ∧ (commandEffect c s).lastClick = s.lastClick ∧
    (commandEffect c s).hasButton = s.hasButton ∧ (commandEffect c s).now = s.now := by
  rcases commandEffect_cases c s with ⟨i, -, h1, h2, h⟩ | ⟨-, h | h⟩
  · rw [h]
    cases i with
    | bedge => exact absurd rfl h1
    | qsample sym => exact absurd rfl (h2 sym)
    | getDiff clr => cases clr <;> simp [effect]
    | _ => simp [effect]
  · simp [h]
  · simp [h, respondIllegal]

/-- The QSAMPLE of a cycle leaves the button's registers and the response alone (R104). -/
theorem sampleEvent_keeps (ws : List EventWord) (s : State.At w) :
    (eventEffect (sampleOf ws) s).btn = s.btn ∧ (eventEffect (sampleOf ws) s).debounceTs = s.debounceTs ∧
    (eventEffect (sampleOf ws) s).lastClick = s.lastClick ∧
    (eventEffect (sampleOf ws) s).hasButton = s.hasButton ∧ (eventEffect (sampleOf ws) s).now = s.now ∧
    (eventEffect (sampleOf ws) s).response = s.response ∧
    ∀ f, f ≠ .moved → readFlag f (eventEffect (sampleOf ws) s).flags = readFlag f s.flags := by
  unfold eventEffect
  split
  · simp
  next i hi =>
    obtain ⟨sym, rfl⟩ := sampleOf_eq_some hi
    simp only [effect]
    exact ⟨by simp, by simp, by simp, by simp, by simp, by simp, fun f hf => by simp [sampleEffect_flags, hf]⟩

/-- The BEDGE of a cycle leaves the rotation's registers and the response alone, and drops no flag (R135). -/
theorem edgeEvent_keeps (ws : List EventWord) (s : State.At w) :
    (eventEffect (edgeOf ws) s).position = s.position ∧ (eventEffect (edgeOf ws) s).delta = s.delta ∧
    (eventEffect (edgeOf ws) s).hist = s.hist ∧ (eventEffect (edgeOf ws) s).response = s.response ∧
    ∀ f, readFlag f s.flags = true → readFlag f (eventEffect (edgeOf ws) s).flags = true := by
  unfold eventEffect
  split
  · simp
  next i hi =>
    have := edgeOf_eq_some hi
    subst this
    simp only [effect]
    exact ⟨by simp, by simp, by simp, by simp, fun f hf => by simp [edgeEffect_flags, hf]⟩

/-- A front end's words decode to their events. -/
theorem decodeEvent_sampleWord (a b : Level) : decodeEvent (sampleWord a b) = .ok (.qsample (symbolOf a b)) := by
  cases a <;> cases b <;> rfl

theorem decodeEvent_edgeWord : decodeEvent edgeWord = .ok .bedge := rfl

/-- The QSAMPLE the quadrature front end makes (R100). -/
theorem sampleOf_frontEnd (c : CycleInput.At w) (s : State.At w) (h : c.events = none) :
    sampleOf (presentedWords c s) =
      if s.capture = false ∧ symbolOf c.qa c.qb ≠ symbolOf s.qaPrev s.qbPrev then
        some (.qsample (symbolOf c.qa c.qb))
      else none := by
  unfold presentedWords
  cases s.capture <;> simp only [h, Bool.false_eq_true, if_false, if_true]
  · unfold quadratureWords buttonWords sampleOf
    by_cases h1 : symbolOf c.qa c.qb ≠ symbolOf s.qaPrev s.qbPrev
    · simp [h1, asSample, decodeEvent_sampleWord]
    · simp only [h1, if_false]
      split <;> simp [asSample, decodeEvent_edgeWord]
  · simp [sampleOf]

/-- The BEDGE the button front end makes (R130). -/
theorem edgeOf_frontEnd (c : CycleInput.At w) (s : State.At w) (h : c.events = none) :
    edgeOf (presentedWords c s) =
      if s.capture = false ∧ (s.hasButton && c.btnIn != s.btnPrev) = true then some .bedge else none := by
  unfold presentedWords
  cases s.capture <;> simp only [h, Bool.false_eq_true, if_false, if_true]
  · unfold quadratureWords buttonWords edgeOf
    by_cases h1 : symbolOf c.qa c.qb ≠ symbolOf s.qaPrev s.qbPrev <;>
      by_cases h2 : (s.hasButton && c.btnIn != s.btnPrev) = true <;>
        simp [h1, asEdge, decodeEvent_sampleWord, decodeEvent_edgeWord, h2]
  · simp [edgeOf]

end Sys2Proof.Machine
end

