-- ==== Sys2Proof/Laws/PerInstr.lean ====
section
/-! SUPPORT. Lemmas per instruction. Family Encoding: the word of an instruction decodes to it. -/

namespace Sys2Proof.Laws.Encoding

/-- The word `encode` writes for `i` decodes to `i`, operands included (R72, R80). -/
def Statement (i : Instr) : Prop := decode (encode i) = .ok i

theorem getCount : Statement .getCount := by unfold Statement; decide

theorem setCount (v : Half) : Statement (.setCount v) := by
  simp [Statement, encode, decode, decodeCommand, commandIf]

theorem getDiff (clr : Bool) : Statement (.getDiff clr) := by cases clr <;> (unfold Statement; decide)

theorem isMoved (clr : Bool) : Statement (.isMoved clr) := by cases clr <;> (unfold Statement; decide)

theorem isPressed (clr : Bool) : Statement (.isPressed clr) := by cases clr <;> (unfold Statement; decide)

theorem isClicked (clr : Bool) : Statement (.isClicked clr) := by cases clr <;> (unfold Statement; decide)

theorem isDoubleClicked (clr : Bool) : Statement (.isDoubleClicked clr) := by cases clr <;> (unfold Statement; decide)

theorem clear : Statement .clear := by unfold Statement; decide

theorem qsample (sym : BitVec 2) : Statement (.qsample sym) := by simp [Statement, encode, decode]

theorem bedge : Statement .bedge := by unfold Statement; decide

end Sys2Proof.Laws.Encoding
end

