-- ==== Sys2Proof/Tests/Slice0.lean ====
section
/-! SUPPORT. Tests. Every expected value is taken from spec/95_test_vectors.md or from the rule named beside it. The last
part shows, for each statement with hypotheses, values that meet them. -/

namespace Sys2Proof.Tests

open Sys2Proof Sys2Proof.Machine

/-! ## Well-formedness: what is refused (R83, R84, R53) -/

theorem test_wf_peek_refused :
    [Mnemonic.getCount, .clear].all (fun m => !(AsmLine.wellFormed ⟨m, true, none⟩)) = true ∧
    AsmLine.wellFormed ⟨.setCount, true, some (.dec 0)⟩ = false ∧ AsmLine.wellFormed ⟨.getDiff, true, none⟩ = true := by
  decide

theorem test_wf_operand_refused :
    AsmLine.wellFormed ⟨.setCount, false, none⟩ = false ∧ AsmLine.wellFormed ⟨.clear, false, some (.dec 0)⟩ = false ∧
    AsmLine.wellFormed ⟨.setCount, false, some (.hex 0)⟩ = true := by decide

theorem test_wf_range_refused :
    Literal.inRange (.dec 32768) = false ∧ Literal.inRange (.dec (-32769)) = false ∧
    Literal.inRange (.hex 0x10000) = false ∧ Literal.inRange (.dec 32767) = true ∧
    Literal.inRange (.dec (-32768)) = true ∧ Literal.inRange (.hex 0xFFFF) = true := by decide

theorem test_wf_item_refused :
    StimItem.wellFormed 32 (.word (2 ^ 32)) = false ∧ StimItem.wellFormed 32 (.bedge (2 ^ 32)) = false ∧
    StimItem.wellFormed 32 (.command ⟨.clear, true, none⟩) = false ∧ StimItem.wellFormed 32 (.word (2 ^ 32 - 1)) = true ∧
    StimItem.wellFormed 32 (.bedge (2 ^ 32 - 1)) = true ∧ StimItem.wellFormed 20 (.bedge (2 ^ 20)) = false := by decide

theorem test_wf_cycle_refused :
    cycleItemsWellFormed 32 [.word 0, .command ⟨.clear, false, none⟩] = false ∧
    cycleItemsWellFormed 32 [.qsample true true, .qsample true false] = false ∧
    cycleItemsWellFormed 32 [.bedge 1, .bedge 2] = false ∧
    cycleItemsWellFormed 32 [.bedge 1, .qsample true true, .word 0] = true := by decide

/-! ## Decoding: words written out from R72 and R80 -/

theorem test_decode_commands :
    decodeCommand 0b0000_00000000000_0_0000000000000000#32 = .ok .getCount ∧
    decodeCommand 0b0001_00000000000_0_1111111111111011#32 = .ok (.setCount 0xFFFB#16) ∧
    decodeCommand 0b0010_00000000000_0_0000000000000000#32 = .ok (.getDiff true) ∧
    decodeCommand 0b0011_00000000000_1_0000000000000000#32 = .ok (.isMoved false) ∧
    decodeCommand 0b0100_00000000000_0_0000000000000000#32 = .ok (.isPressed true) ∧
    decodeCommand 0b0101_00000000000_1_0000000000000000#32 = .ok (.isClicked false) ∧
    decodeCommand 0b0110_00000000000_0_0000000000000000#32 = .ok (.isDoubleClicked true) ∧
    decodeCommand 0b0111_00000000000_0_0000000000000000#32 = .ok .clear := by decide

/-- V-E1 and V-E2. -/
theorem test_decode_events :
    [0x00#8, 0x01#8, 0x02#8, 0x03#8].map decodeEvent =
      [.ok (.qsample 0b00#2), .ok (.qsample 0b01#2), .ok (.qsample 0b10#2), .ok (.qsample 0b11#2)] ∧
    decodeEvent 0b01_0000_00#8 = .ok .bedge := by decide

/-- V-H20 to V-H30. -/
theorem test_decode_illegal_commands :
    [0x80000000#32, 0xF0000000#32, 0x00020000#32, 0x0FFE0000#32, 0x00010000#32, 0x00000001#32, 0x10010005#32,
      0x30000001#32, 0x20018000#32, 0x70010000#32, 0x7000FFFF#32].all
        (fun w => decide (decodeCommand w = .error .illegalCommand)) = true := by decide

/-- V-E3. -/
theorem test_decode_illegal_events :
    [0x04#8, 0x3C#8, 0x41#8, 0x43#8, 0x80#8, 0xFF#8].all
        (fun e => decide (decodeEvent e = .error .illegalEvent)) = true := by decide

theorem test_encode_words :
    encode (.setCount 0xFFFB#16) = .host 0x1000FFFB#32 ∧ encode (.isDoubleClicked false) = .host 0x60010000#32 ∧
    encode (.qsample 0b10#2) = .event 0x02#8 ∧ encode .bedge = .event 0x40#8 := by decide

/-- I1, I2 and R53: an ILLEGAL word, an ILLEGAL_EVENT and two QSAMPLEs lie outside the domain. -/
theorem test_domain :
    let c : CycleInput := ⟨false, true, some 0x80000000, true, true, true, none, 0⟩
    inDomain c = false ∧ inDomain { c with command := none, events := some [0x41] } = false ∧
    inDomain { c with command := none, events := some [0x01, 0x02] } = false ∧
    inDomain { c with command := some 0x70000000, events := some [0x40, 0x02] } = true := by decide

/-! ## Text (R83, R84, R85) -/

theorem test_text_assembler :
    assembleText "SET_COUNT #-5" = some (.setCount 0xFFFB#16) ∧
    assembleText "SET_COUNT #0x8000" = some (.setCount 0x8000#16) ∧
    assembleText "GET_DIFF.PEEK" = some (.getDiff false) ∧ assembleText "CLEAR.PEEK" = none ∧
    assembleText "SET_COUNT #32768" = none ∧ assembleText "IS_MOVED" = some (.isMoved true) := by decide

theorem test_text_calls :
    ((readCall "setCount(-5)").map expandCall).bind assemble = some (.setCount 0xFFFB#16) ∧
    ((readCall "isMoved(false)").map expandCall).bind assemble = some (.isMoved false) ∧
    ((readCall "getDiff()").map expandCall).bind assemble = some (.getDiff true) ∧
    ((readCall "NOP").map expandCall).bind assemble = some .getCount := by decide

/-! ## One cycle each -/

/-- The next state, if there is one. -/
def nextOf (o : Host.Outcome State Fault Refusal) : Option State :=
  match o with
  | .next s => some s
  | .fault _ => none
  | .refused _ => none

/-- The state after the cycle of a stimulus line. -/
def after (s : State) (line : String) : Option State := (presentLine s line).bind fun u => nextOf (step u)

/-- The state after a cycle in which exactly these words are presented. -/
def cycle (s : State) (cmd : Option CommandWord) (ws : List EventWord) (t : Timestamp) : Option State :=
  nextOf (step (presenting s cmd ws t))

/-- Start state H0 of 95_test_vectors section 2.3. -/
def h0 : State :=
  { afterCapture with
    position := 0x0003, delta := 0xFFFE, flags := 0b1111, hist := 0x4B, debounceTs := 1400000, lastClick := 1400000 }

/-- HIST = 0x12: QSAMPLE 11 completes the clockwise pattern. -/
def nearCw : State := { afterCapture with hist := 0x12 }

/-- HIST = 0xE1: QSAMPLE 11 completes the counter-clockwise pattern. -/
def nearCcw : State := { afterCapture with hist := 0xE1 }

/-- A button held since 1,000,000. -/
def held : State := { afterCapture with btn := .pressed, debounceTs := 1000000, flags := 0b0010 }

/-- V-H1. -/
theorem test_get_count : after h0 "GET_COUNT" = some { h0 with response := some ⟨false, 0x0003⟩ } := by decide

/-- V-S6. -/
theorem test_get_count_before_indent :
    (cycle { nearCw with position := 3 } (some 0x00000000) [0x03] 0).map (fun t => (t.response, t.position)) =
      some (some ⟨false, 3⟩, 4) := by decide

/-- V-H2. -/
theorem test_set_count :
    after h0 "SET_COUNT #-5" = some { h0 with position := 0xFFFB, response := some ⟨false, 0⟩ } := by decide

/-- V-S5. -/
theorem test_set_count_with_indent :
    (cycle nearCw (some 0x1000000A) [0x03] 0).map (fun t => (t.position, t.delta)) = some (0x000B, 1) := by decide

/-- V-H4. -/
theorem test_get_diff :
    after h0 "GET_DIFF" = some { h0 with delta := 0, response := some ⟨false, 0xFFFE⟩ } := by decide

/-- V-S1. -/
theorem test_get_diff_with_indent :
    (cycle { nearCw with delta := 5, position := 5 } (some 0x20000000) [0x03] 0).map
      (fun t => (t.response, t.delta, t.position, t.flags)) = some (some ⟨false, 5⟩, 1, 6, 0b0001) := by decide

/-- V-H6. -/
theorem test_is_moved :
    after h0 "IS_MOVED" = some { h0 with flags := 0b1110, response := some ⟨false, 1⟩ } := by decide

/-- V-S2. -/
theorem test_is_moved_with_indent :
    (cycle nearCw (some 0x30000000) [0x03] 0).map (fun t => (t.response, t.flags)) =
      some (some ⟨false, 0⟩, 0b0001) := by decide

/-- V-H8. -/
theorem test_is_pressed :
    after h0 "IS_PRESSED" = some { h0 with flags := 0b1101, response := some ⟨false, 1⟩ } := by decide

/-- V-H9. -/
theorem test_is_pressed_peek :
    after h0 "IS_PRESSED.PEEK" = some { h0 with response := some ⟨false, 1⟩ } := by decide

/-- V-H10. -/
theorem test_is_clicked :
    after h0 "IS_CLICKED" = some { h0 with flags := 0b1011, response := some ⟨false, 1⟩ } := by decide

/-- V-S4. -/
theorem test_is_clicked_with_release :
    (cycle { held with flags := 0b0110 } (some 0x50000000) [0x40] 1100000).map (fun t => (t.response, t.flags)) =
      some (some ⟨false, 1⟩, 0b0110) := by decide

/-- V-H12. -/
theorem test_is_double_clicked :
    after h0 "IS_DOUBLE_CLICKED" = some { h0 with flags := 0b0111, response := some ⟨false, 1⟩ } := by decide

/-- V-H13. -/
theorem test_is_double_clicked_peek :
    after h0 "IS_DOUBLE_CLICKED.PEEK" = some { h0 with response := some ⟨false, 1⟩ } := by decide

/-- V-H14. -/
theorem test_clear : after h0 "CLEAR" = some { h0 with flags := 0, response := some ⟨false, 0⟩ } := by decide

/-- V-S3. -/
theorem test_clear_with_release :
    (cycle held (some 0x70000000) [0x40] 1100000).map (fun t => (t.response, t.flags, t.btn)) =
      some (some ⟨false, 0⟩, 0b0100, .released) := by decide

/-- V-Q12 and R109. -/
theorem test_qsample_cw_wraps :
    (after { nearCw with position := 0x7FFF, delta := 0x7FFF } "QSAMPLE 11").map
      (fun t => (t.hist, t.position, t.delta, t.flags)) = some (0x4B, 0x8000, 0x8000, 0b0001) := by decide

/-- V-Q14. -/
theorem test_qsample_ccw :
    (after { nearCcw with position := 5 } "QSAMPLE 11").map (fun t => (t.hist, t.position, t.delta, t.flags)) =
      some (0x87, 4, 0xFFFF, 0b0001) := by decide

/-- R139 (V-B7). -/
theorem test_bedge_release :
    after { held with debounceTs := 1200000, lastClick := 1010000 } "BEDGE @1,400,000" =
      some { held with
        btn := .released, debounceTs := 1400000, lastClick := 1400000, flags := 0b1110, now := 1400000 } := by decide

/-- V-B11 and V-B12. -/
theorem test_bedge_across_wrap :
    let s := { afterCapture with debounceTs := 0xFFFFF000 }
    (cycle s none [0x40] 0x00001000).map (fun t => (t.btn, t.debounceTs)) = some (.released, 0xFFFFF000) ∧
    (cycle s none [0x40] 0x00002000).map (fun t => (t.btn, t.debounceTs, t.flags)) =
      some (.pressed, 0x00002000, 0b0010) := by decide

/-- V-S7, as stimulus text with its items in the other order. -/
theorem test_cycle_with_both_events :
    (readCycle "QSAMPLE 11").isSome = true ∧
    ((cycleOfItems nearCw [.bedge 1000000, .qsample true true]).bind fun c =>
      nextOf (step { nearCw with stimulus := [c] })).map (fun t => (t.flags, t.btn)) = some (0b0011, .pressed) := by
  decide

/-- V-S8. -/
theorem test_illegal_with_indent :
    (cycle nearCw (some 0x80000000) [0x03] 0).map (fun t => (t.response, t.position, t.flags)) =
      some (some ⟨true, 0⟩, 1, 0b0001) := by decide

/-- The pins of a cycle without RST, command or port words. -/
def pins (qa qb b : Level) (t : Timestamp) : CycleInput := ⟨false, true, none, qa, qb, b, none, t⟩

/-- V-QF1 and V-QF3: the capture cycle makes no event, and a double change makes one. -/
theorem test_quadrature_front_end :
    (nextOf (step { State.reset with stimulus := [pins false false true 0] })).map (fun t => (t.hist, t.qaPrev)) =
      some (0x00, false) ∧
    nextSample { afterCapture with stimulus := [pins true true true 0] } = none ∧
    nextSample { afterCapture with stimulus := [pins false false true 0] } = some (.qsample 0b00) := by decide

/-- V-BF1: a button held through reset. -/
theorem test_button_front_end :
    (nextOf (step { afterCapture with btnPrev := false, stimulus := [pins true true true 2000000] })).map
      (fun t => (t.btn, t.flags)) = some (.pressed, 0b0010) := by decide

/-- V-R1 and V-R2. -/
theorem test_rst :
    nextOf (step { h0 with stimulus := [{ pins false true false 7 with rst := true, command := some 0x1000FFFB }] }) =
      some { State.reset with now := 7 } := by decide

/-! ## Another TS_W (R10) -/

/-- R10: 20 is the least width a model admits. R145 at that width: `elapsed` across the wrap is 0x3000 = 12,288. -/
theorem test_width_20 :
    Config.admitsWidth 20 = true ∧ Config.admitsWidth 19 = false ∧
    (let s : State.At 20 := { State.resetAt 20 with
        capture := false, debounceTs := 0xFF000,
        stimulus := [⟨false, true, none, true, true, false, none, 0x02000⟩] };
      match stepAt s with
      | .next t => decide (t.btn = .pressed ∧ t.debounceTs = 0x02000 ∧ t.flags = 0b0010)
      | _ => false) = true := by decide

/-! ## Witnesses: values that meet the hypotheses of each statement, one per clause, at the edges of the ranges -/

/-- A state about to run one cycle with nothing but the pins at rest. -/
def idle (s : State) : State := { s with stimulus := [pins true true true 0] }

theorem witness_CommandWordsFollowOpMap :
    8 ≤ (0x80000000#32).toNat / 2 ^ 28 ∧ 8 ≤ (0xFFFFFFFF#32).toNat / 2 ^ 28 := by decide

theorem witness_HostCannotPresentEvents :
    decodeCommand 0x00000000#32 = .ok .getCount ∧ decodeCommand 0x70000000#32 = .ok .clear := by decide

theorem witness_AssemblerFollowsSyntaxTable :
    (-32768 : Int) ≤ -32768 ∧ (32767 : Int) ≤ 32767 ∧ ¬((-32768 : Int) ≤ 32768 ∧ (32768 : Int) ≤ 32767) ∧
    0xFFFF ≤ 0xFFFF ∧ 0xFFFF < 0x10000 := by decide

theorem witness_ApiCallsExpandToCommands : (-32768 : Int) ≤ 32767 ∧ (32767 : Int) ≤ 32767 := by decide

theorem witness_ResetLeavesTableValues : (pins false true true 0).rst = false ∧ (pins false true true 0).command = none := by
  decide

theorem witness_RstRestoresAndCaptureTakesNoEvent :
    (nextInput { h0 with stimulus := [{ pins true true true 0 with rst := true }] }).rst = true ∧
    ((nextInput (idle State.reset)).rst = false ∧ (idle State.reset).capture = true ∧
      (nextInput (idle State.reset)).command = none) ∧
    (nextInput { State.reset with stimulus := [{ pins false true true 0 with command := some 0 }] }).command =
      some 0x00000000#32 ∧
    decodeCommand 0x00000000#32 = .ok .getCount := by decide

theorem witness_HasButtonFixedFromReset : ∃ t, (nextInput (idle h0)).rst = false ∧ step (idle h0) = .next t :=
  ⟨_, rfl, rfl⟩

theorem witness_SetCountOverwritesPosition : (0x12#8) <<< 2 ||| (0b11#2).setWidth 8 = 0x4B#8 := by decide

theorem witness_GetDiffReturnsAndClears :
    (0x12#8) <<< 2 ||| (0b11#2).setWidth 8 = 0x4B#8 ∧ (0xE1#8) <<< 2 ||| (0b11#2).setWidth 8 = 0x87#8 := by decide

theorem witness_IsMovedReturnsAndClears :
    (0xD2#8) <<< 2 ||| (0b11#2).setWidth 8 = 0x4B#8 ∧ (0x61#8) <<< 2 ||| (0b11#2).setWidth 8 = 0x87#8 := by decide

/-- The reset state with the button disabled meets the invariant. -/
theorem inv_disabled : Inv { afterCapture with hasButton := false } where
  disabled_at_rest _ := ⟨rfl, rfl, rfl, rfl, rfl, rfl⟩
  released_stamps _ := rfl
  err_without_data _ h := by cases h

theorem witness_IsPressedReturnsAndClears :
    (afterCapture.hasButton = true ∧ 10000 ≤ ((10000#32) - afterCapture.debounceTs).toNat ∧
      afterCapture.btn = .released) ∧
    Inv { afterCapture with hasButton := false } := ⟨by decide, inv_disabled⟩

theorem witness_IsClickedReturnsAndClears :
    (held.hasButton = true ∧ 10000 ≤ ((1010000#32) - held.debounceTs).toNat ∧ held.btn = .pressed) ∧
    Inv { afterCapture with hasButton := false } := ⟨by decide, inv_disabled⟩

theorem witness_IsDoubleClickedReturnsAndClears :
    (let s : State := { held with lastClick := 510000, now := 1010000 };
      s.hasButton = true ∧ 10000 ≤ (s.now - s.debounceTs).toNat ∧ s.btn = .pressed ∧
        (s.now - s.lastClick).toNat ≤ 500000) ∧
    Inv { afterCapture with hasButton := false } := ⟨by decide, inv_disabled⟩

theorem witness_ClearDropsAllFlags :
    (0x12#8) <<< 2 ||| (0b11#2).setWidth 8 = 0x4B#8 ∧
    (afterCapture.hasButton = true ∧ 10000 ≤ ((10000#32) - afterCapture.debounceTs).toNat ∧
      afterCapture.btn = .released) ∧
    (held.hasButton = true ∧ 10000 ≤ ((1010000#32) - held.debounceTs).toNat ∧ held.btn = .pressed) := by decide

theorem witness_HostCommandsTouchOnlyTheirItem :
    ∃ t, decodeCommand 0x10008000#32 = .ok (.setCount 0x8000#16) ∧ exec (.setCount 0x8000#16) h0 = .next t ∧
      t.position ≠ h0.position := ⟨_, rfl, rfl, by decide⟩

theorem witness_HiddenStateHasNoReader :
    ∃ a' b', decodeCommand 0x20000000#32 = .ok (.getDiff true) ∧
      exec (.getDiff true) h0 = .next a' ∧ exec (.getDiff true) { h0 with hist := 0, btn := .pressed } = .next b' :=
  ⟨_, _, rfl, rfl, rfl⟩

theorem witness_QsampleRecognizesIndents :
    (∃ t, exec (.qsample 0b11#2) nearCw = .next t ∧ t.hist = 0x4B#8) ∧
    (∃ t, exec (.qsample 0b11#2) nearCcw = .next t ∧ t.hist = 0x87#8) ∧
    (∃ t, exec (.qsample 0b10#2) nearCw = .next t ∧ t.hist ≠ 0x4B#8 ∧ t.hist ≠ 0x87#8) :=
  ⟨⟨_, rfl, by decide⟩, ⟨_, rfl, by decide⟩, ⟨_, rfl, by decide, by decide⟩⟩

theorem witness_QsampleWritesOnlyRotationState :
    (∃ t, exec (.qsample 0b11#2) nearCw = .next t ∧ t.hist = 0x4B#8) ∧
    (∃ t, exec (.qsample 0b10#2) nearCw = .next t ∧ t.hist ≠ 0x4B#8 ∧ t.hist ≠ 0x87#8) :=
  ⟨⟨_, rfl, by decide⟩, ⟨_, rfl, by decide, by decide⟩⟩

theorem witness_CountersWrap :
    (let s : State := { nearCw with position := 0x7FFF#16, delta := 0x7FFF#16 };
      s.hist <<< 2 ||| (0b11#2).setWidth 8 = 0x4B#8 ∧ s.position = 0x7FFF#16 ∧ s.delta = 0x7FFF#16) ∧
    (let s : State := { nearCcw with position := 0x8000#16, delta := 0x8000#16 };
      s.hist <<< 2 ||| (0b11#2).setWidth 8 = 0x87#8 ∧ s.position = 0x8000#16 ∧ s.delta = 0x8000#16) := by decide

theorem witness_MatchesAreFourSamplesApart : h0.hist = 0x4B#8 ∧ { h0 with hist := 0x87#8 }.hist = 0x87#8 := by decide

theorem witness_DeltaMinusPositionChangesOnlyByHost :
    ∃ t, step (idle h0) = .next t ∧ (nextInput (idle h0)).rst = false ∧ nextCommand (idle h0) = none :=
  ⟨_, rfl, rfl, rfl⟩

theorem witness_BedgeDebouncesAndToggles :
    { held with hasButton := false }.hasButton = false ∧
    (held.hasButton = true ∧ (1009999 + 2 ^ 32 - held.debounceTs.toNat) % 2 ^ 32 < 10000) ∧
    (10000 ≤ (1010000 + 2 ^ 32 - held.debounceTs.toNat) % 2 ^ 32 ∧ held.btn = .pressed) ∧
    (10000 ≤ (10000 + 2 ^ 32 - afterCapture.debounceTs.toNat) % 2 ^ 32 ∧ afterCapture.btn = .released) := by decide

theorem witness_BedgeWritesOnlyButtonState :
    (∃ t, exec .bedge { held with now := 1009999 } = .next t ∧ ¬10000 ≤ ((1009999#32) - held.debounceTs).toNat) ∧
    (∃ t, exec .bedge { held with now := 1010000 } = .next t ∧ held.hasButton = true ∧
      10000 ≤ ((1010000#32) - held.debounceTs).toNat ∧ held.btn = .pressed) ∧
    (∃ t, exec .bedge { afterCapture with now := 10000 } = .next t ∧ afterCapture.hasButton = true ∧
      10000 ≤ ((10000#32) - afterCapture.debounceTs).toNat ∧ afterCapture.btn = .released) :=
  ⟨⟨_, rfl, by decide⟩, ⟨_, rfl, by decide⟩, ⟨_, rfl, by decide⟩⟩

theorem witness_WindowBoundariesAreExact :
    held.hasButton = true ∧ held.btn = .pressed ∧
    10000 ≤ ((510000#32) + 500000#32 - held.debounceTs).toNat ∧
    10000 ≤ ((509999#32) + 500001#32 - held.debounceTs).toNat := by decide

theorem witness_BedgeIgnoresPinLevels : ∃ t, exec .bedge { held with now := 1010000 } = .next t ∧ t.btn = .released :=
  ⟨_, rfl, by decide⟩

theorem witness_SecondRapidEdgeIsDiscarded :
    afterCapture.hasButton = true ∧ 10000 ≤ ((10000#32) - afterCapture.debounceTs).toNat ∧
    ((19999#32) - 10000#32).toNat < 10000 := by decide

theorem witness_DoubleClickNeedsGapInWindow :
    (afterCapture.hasButton = true ∧ afterCapture.btn = .released ∧
      10000 ≤ ((1000000#32) - afterCapture.debounceTs).toNat ∧ 10000 ≤ ((1100000#32) - 1000000#32).toNat ∧
      10000 ≤ ((1300000#32) - 1100000#32).toNat ∧ 10000 ≤ ((1600000#32) - 1300000#32).toNat) ∧
    ((1600000#32) - 1100000#32).toNat ≤ 500000 ∧ 500000 < ((1600001#32) - 1100000#32).toNat := by decide

theorem witness_StepRunsDecodedCommand :
    let c := { pins true true true 0 with command := some 0x70000000#32 };
    { State.reset with stimulus := [c] }.stimulus = [c] ∧ c.rst = false ∧ c.command = some 0x70000000#32 ∧
      decode (.host 0x70000000#32) = .ok .clear ∧ State.reset.capture = true ∧
      { c with events := some [] }.events = some [] := by decide

theorem witness_StepRunsDecodedEvent :
    let c := { pins true true true 0 with events := some [0x40#8] };
    { afterCapture with stimulus := [c] }.stimulus = [c] ∧ c.rst = false ∧ c.command = none ∧
      afterCapture.capture = false ∧ decode (.event 0x40#8) = .ok .bedge := by decide

theorem witness_PlacedTableWordRuns :
    decodeTableWord 32 0x1000FFFB = some (.setCount 0xFFFB#16) ∧ decodeTableWord 8 0x40 = some .bedge := by decide

theorem witness_SameCycleOrderIsHostSampleEdge :
    decodeCommand 0x20000000#32 = .ok (.getDiff true) ∧
    ([0x03#8, 0x40#8] = ((some 0b11#2).map (BitVec.setWidth 8)).toList ++ [0x40#8]) ∧
    (let c := { pins false true false 0 with command := some 0x20000000#32 };
      let s := { afterCapture with stimulus := [c] };
      (nextInput s).rst = false ∧ s.capture = false ∧ (nextInput s).command = some 0x20000000#32 ∧
        (nextInput s).events = none ∧ symbolOf (nextInput s).qa (nextInput s).qb ≠ symbolOf s.qaPrev s.qbPrev ∧
        s.hasButton = true ∧ (nextInput s).btnIn ≠ s.btnPrev) := by decide

theorem witness_SetWinsOverSameCycleClear :
    nextSample (presenting nearCw (some 0x30000000#32) [0x03#8] 0) = some (.qsample 0b11#2) ∧
    nearCw.hist <<< 2 ||| (0b11#2).setWidth 8 = 0x4B#8 ∧ nearCcw.hist <<< 2 ||| (0b11#2).setWidth 8 = 0x87#8 ∧
    (let s := presenting { held with lastClick := 510000 } (some 0x70000000#32) [0x40#8] 1010000;
      nextEdge s = some .bedge ∧ s.hasButton = true ∧ 10000 ≤ ((nextInput s).now - s.debounceTs).toNat ∧
        s.btn = .pressed ∧ ((nextInput s).now - s.lastClick).toNat ≤ 500000) ∧
    (let s := presenting afterCapture (some 0x70000000#32) [0x40#8] 10000;
      nextEdge s = some .bedge ∧ s.hasButton = true ∧ 10000 ≤ ((nextInput s).now - s.debounceTs).toNat ∧
        s.btn = .released) := by decide

theorem witness_DeltaConservedByEveryStep :
    ∃ t, step (presenting { nearCw with delta := 5 } (some 0x20000000#32) [0x03#8] 0) = .next t ∧ t.delta = 1 ∧
      (Ledger.mk 0 5 0).Balanced (presenting { nearCw with delta := 5 } (some 0x20000000#32) [0x03#8] 0) :=
  ⟨_, rfl, by decide, by unfold Ledger.Balanced; decide⟩

theorem witness_DeltaConservedOverRuns : Ledger.start.Balanced State.reset := by unfold Ledger.Balanced; decide

theorem witness_FlagsFallOnlyByClearingCommand :
    let s := presenting h0 (some 0x30000000#32) [] 0;
    ∃ t, step s = .next t ∧ (nextInput s).rst = false ∧ readFlag .moved s.flags = true ∧
      readFlag .moved t.flags = false := ⟨_, rfl, rfl, by decide, by decide⟩

theorem witness_EachFlagHasOneProducer :
    (∃ t, exec (.qsample 0b11#2) nearCw = .next t) ∧ (∃ t, exec .bedge { held with now := 1010000 } = .next t) ∧
    (∃ t, decodeCommand 0x00000000#32 = .ok .getCount ∧ exec .getCount nearCw = .next t ∧
      readFlag .moved nearCw.flags = false) ∧
    (∃ u, exec .bedge { held with flags := 0b1111, now := 1010000 } = .next u) :=
  ⟨⟨_, rfl⟩, ⟨_, rfl⟩, ⟨_, rfl, rfl, by decide⟩, ⟨_, rfl⟩⟩

/-- The reset state meets the invariant's three clauses, so a state with the invariant can take a step. -/
theorem witness_EveryStepKeepsInv :
    ∃ t, Inv { idle afterCapture with hasButton := false } ∧
      step { idle afterCapture with hasButton := false } = .next t :=
  ⟨_, ⟨fun _ => ⟨rfl, rfl, rfl, rfl, rfl, rfl⟩, fun _ => rfl, fun _ h => by cases h⟩, rfl⟩

theorem witness_ErrExactlyForIllegalCommands :
    (∃ t, step (idle afterCapture) = .next t ∧ (nextInput (idle afterCapture)).rst = false ∧
      (nextInput (idle afterCapture)).command = none) ∧
    (let s := presenting h0 (some 0x80000000#32) [] 0;
      ∃ t, step s = .next t ∧ (nextInput s).rst = false ∧ (nextInput s).command = some 0x80000000#32 ∧
        decodeCommand 0x80000000#32 = .error .illegalCommand ∧ nextSample s = none ∧ nextEdge s = none) :=
  ⟨⟨_, rfl, rfl, rfl⟩, ⟨_, rfl, rfl, rfl, by decide, by decide, by decide⟩⟩

theorem witness_IllegalCommandChangesNothing :
    decodeCommand 0x80000000#32 = .error .illegalCommand ∧ decodeCommand 0x00020000#32 = .error .illegalCommand := by
  decide

theorem witness_IllegalEventChangesNothing :
    decodeEvent 0x04#8 = .error .illegalEvent ∧ decodeEvent 0xFF#8 = .error .illegalEvent ∧
    0x00#8 ∈ quadratureWords (pins false false true 0) afterCapture ++ buttonWords (pins false false true 0) afterCapture := by
  decide

theorem witness_QuadratureFrontEndSamplesEdges :
    (let s := idle State.reset;
      s.stimulus = [pins true true true 0] ∧ s.capture = true) ∧
    (let c := pins true true true 0;
      afterCapture.capture = false ∧ c.qa = afterCapture.qaPrev ∧ c.qb = afterCapture.qbPrev ∧ c.rst = false ∧
        c.events = none) ∧
    (let c := pins false true true 0;
      afterCapture.capture = false ∧ c.qa ≠ afterCapture.qaPrev ∧ c.rst = false ∧ c.events = none) ∧
    (pins true false true 0).qb ≠ afterCapture.qbPrev := by decide

theorem witness_ButtonFrontEndDetectsEdges :
    { afterCapture with hasButton := false }.hasButton = false ∧ State.reset.capture = true ∧
    (pins true true true 0).btnIn = afterCapture.btnPrev ∧
    (let c := pins true true false 10000;
      afterCapture.hasButton = true ∧ afterCapture.capture = false ∧ c.btnIn ≠ afterCapture.btnPrev ∧
        10000 ≤ (c.now - afterCapture.debounceTs).toNat ∧ c.rst = false ∧ c.events = none) := by decide

theorem witness_AcceptedEdgesAloneWriteButtonRegisters :
    (let s := presenting held none [0x40#8] 1010000;
      ∃ t, step s = .next t ∧ (nextInput s).rst = false ∧ nextEdge s = some .bedge ∧ s.hasButton = true ∧
        10000 ≤ ((nextInput s).now - s.debounceTs).toNat ∧ s.btn = .pressed) ∧
    (let s := presenting held none [0x40#8] 1009999;
      ∃ t, step s = .next t ∧ (nextInput s).rst = false ∧ ¬10000 ≤ ((nextInput s).now - s.debounceTs).toNat) :=
  ⟨⟨_, rfl, rfl, by decide⟩, ⟨_, rfl, rfl, by decide⟩⟩

theorem witness_RotationRegistersHaveTheirWriters :
    (let s := presenting nearCw none [0x03#8] 0;
      ∃ t, step s = .next t ∧ (nextInput s).rst = false ∧ t.hist ≠ s.hist ∧ t.position ≠ s.position ∧
        t.delta ≠ s.delta) ∧
    (let s := presenting h0 (some 0x10000000#32) [] 0;
      ∃ t, step s = .next t ∧ (nextInput s).rst = false ∧ t.position ≠ s.position) :=
  ⟨⟨_, rfl, rfl, by decide, by decide, by decide⟩, ⟨_, rfl, rfl, by decide⟩⟩

theorem witness_HeldButtonReleaseIsTakenAsPress :
    let s := { afterCapture with btnPrev := false, stimulus := [pins true true true 10000] };
    let c := pins true true true 10000;
    s.stimulus = [c] ∧ c.rst = false ∧ c.events = none ∧ c.command = none ∧ s.capture = false ∧ s.hasButton = true ∧
      s.btn = .released ∧ s.btnPrev = false ∧ c.btnIn = true ∧ 10000 ≤ (c.now - s.debounceTs).toNat := by decide

theorem witness_ResetTimestampsShow :
    (afterCapture.hasButton = true ∧ afterCapture.btn = .released ∧ afterCapture.debounceTs = 0 ∧
      afterCapture.lastClick = 0 ∧ readFlag .doubleClicked afterCapture.flags = false) ∧
    (9999#32).toNat < 10000 ∧ 10000 ≤ (10000#32).toNat ∧ 10000 ≤ ((20000#32) - 10000#32).toNat := by decide

/-- A disabled button, both sides of the debounce boundary, a press and a release at width 20, and the edges of the gaps. -/
theorem witness_EveryWidthFollowsTheSameRules :
    Config.admitsWidth 32 = true ∧
    (let s : State.At 20 := { State.resetAt 20 with now := 9999 };
      s.hasButton = true ∧ (s.now.toNat + 2 ^ 20 - s.debounceTs.toNat) % 2 ^ 20 < 10000 ∧
        { s with hasButton := false }.hasButton = false) ∧
    (let s : State.At 20 := { State.resetAt 20 with now := 10000 };
      s.hasButton = true ∧ 10000 ≤ (s.now.toNat + 2 ^ 20 - s.debounceTs.toNat) % 2 ^ 20 ∧ s.btn = .released ∧
        { s with btn := .pressed }.btn = .pressed) ∧
    20 ≤ 20 ∧ 0 < 1 ∧ 1 ≤ 500000 ∧ 0 < 500000 ∧ 500000 ≤ 500000 ∧ 18 ≤ 18 := by decide

end Sys2Proof.Tests
end

section
/-! PROOFS. The machine at every `TS_W`: differences of timestamps modulo 2^w, BEDGE's next state case by case, and the
double-click window at wide and narrow widths (R10, R132 to R135). -/

namespace Sys2Proof.Machine

variable {w : Nat}

/-! ## Differences of timestamps -/

/-- The spec's modular difference of two times, as arithmetic on naturals (R12, R132). -/
theorem toNat_sub_eq_mod (now since : BitVec w) :
    (now - since).toNat = (now.toNat + 2 ^ w - since.toNat) % 2 ^ w := by
  have hs := since.isLt
  rw [BitVec.toNat_sub, show 2 ^ w - since.toNat + now.toNat = now.toNat + 2 ^ w - since.toNat by omega]

/-- From width 20 on, a positive gap of at most DBLCLICK_US is its own residue, and its negative is far beyond
DBLCLICK_US: 2^20 exceeds twice DBLCLICK_US (R10). -/
theorem gap_residues (hw : 20 ≤ w) {gap : Nat} (hpos : 0 < gap) (hle : gap ≤ 500000) :
    gap % 2 ^ w = gap ∧ 500000 < (2 ^ w - gap) % 2 ^ w := by
  have hpow : 2 ^ 20 ≤ 2 ^ w := Nat.pow_le_pow_right (by decide) hw
  have hneg : (2 ^ w - gap) % 2 ^ w = 2 ^ w - gap := Nat.mod_eq_of_lt (by omega)
  exact ⟨Nat.mod_eq_of_lt (by omega), by omega⟩

/-- A gap of up to DBLCLICK_US lies inside the window (R10). -/
theorem insideDoubleClick_add_gap (hw : 20 ≤ w) (t : BitVec w) {gap : Nat} (hpos : 0 < gap) (hle : gap ≤ 500000) :
    insideDoubleClick (t + BitVec.ofNat w gap) t = true := by
  rw [insideDoubleClick_iff, add_sub_cancel_left, BitVec.toNat_ofNat, (gap_residues hw hpos hle).1]
  exact hle

/-- The negative gap of the same size lies outside it (R10). -/
theorem not_insideDoubleClick_sub_gap (hw : 20 ≤ w) (t : BitVec w) {gap : Nat} (hpos : 0 < gap) (hle : gap ≤ 500000) :
    insideDoubleClick t (t + BitVec.ofNat w gap) = false := by
  obtain ⟨hgap, hneg⟩ := gap_residues hw hpos hle
  rw [← Bool.not_eq_true, insideDoubleClick_iff, sub_add_cancel_left, BitVec.toNat_neg, BitVec.toNat_ofNat, hgap]
  exact hneg.not_ge

/-- Up to width 18 every residue is at most DBLCLICK_US (R10). -/
theorem two_pow_le_dblclickUs (hw : w ≤ 18) : 2 ^ w ≤ Config.dblclickUs :=
  (Nat.pow_le_pow_right (by decide) hw).trans (by decide)

/-- So there every two times compare as inside the double-click window. -/
theorem insideDoubleClick_of_narrow (hw : w ≤ 18) (now since : BitVec w) : insideDoubleClick now since = true :=
  decide_eq_true ((timeSince now since).isLt.le.trans (two_pow_le_dblclickUs hw))

/-! ## BEDGE's next state, case by case -/

/-- The acceptance of an edge by the time elapsed modulo 2^w (R131, R132). -/
theorem edgeAccepted_iff_mod (s : State.At w) :
    edgeAccepted s = true ↔
      s.hasButton = true ∧ 10000 ≤ (s.now.toNat + 2 ^ w - s.debounceTs.toNat) % 2 ^ w := by
  rw [edgeAccepted_iff, toNat_sub_eq_mod]

/-- An edge that is not accepted changes nothing (R131, R135). -/
theorem edgeEffect_of_not_accepted {s : State.At w} (ha : ¬ edgeAccepted s = true) : edgeEffect s = s :=
  if_neg ha

/-- An accepted press (R134). -/
theorem edgeEffect_of_press {s : State.At w} (ha : edgeAccepted s = true) (hb : s.btn = .released) :
    edgeEffect s = { s with debounceTs := s.now, btn := .pressed, flags := s.flags ||| 0b0010#4 } := by
  simp only [edgeEffect, ha, if_true, acceptEdge, hb]
  rfl

/-- Clicked and DoubleClicked set together, as one mask (R24, R133). -/
theorem setFlag_doubleClicked_setFlag_clicked (fl : BitVec 4) :
    setFlag .doubleClicked (setFlag .clicked fl) = fl ||| 0b1100#4 := BitVec.or_assoc ..

/-- The release branch, field by field (R133). -/
theorem releaseEdge_eq (s : State.At w) :
    releaseEdge s = { s with
      btn := .released, lastClick := s.now,
      flags := s.flags ||| (if insideDoubleClick s.now s.lastClick then 0b1100#4 else 0b0100#4) } := by
  by_cases hd : insideDoubleClick s.now s.lastClick = true
  · simp only [releaseEdge, hd, if_true, ← setFlag_doubleClicked_setFlag_clicked]
    rfl
  · simp only [releaseEdge, hd]
    rfl

/-- An accepted release (R133). -/
theorem edgeEffect_of_release {s : State.At w} (ha : edgeAccepted s = true) (hb : s.btn = .pressed) :
    edgeEffect s = { s with
      debounceTs := s.now, btn := .released, lastClick := s.now,
      flags := s.flags ||| (if insideDoubleClick s.now s.lastClick then 0b1100#4 else 0b0100#4) } := by
  simp only [edgeEffect, ha, if_true, acceptEdge, hb]
  exact releaseEdge_eq (putDebounceTs s.now s)

/-! ## This hardware is the machine at width 32 -/

theorem execAt_eq_exec (i : Instr) (s : State) : execAt i s = exec i s := by rw [execAt_eq, exec_eq]

theorem stepAt_eq_step (s : State) : stepAt s = step s := by rw [stepAt_eq, step_eq]

theorem core_eq_coreAt (h : Config.admitsWidth 32 = true) : Sys2Proof.core = coreAt 32 h := by
  have hstep : step = stepAt := funext fun s => (stepAt_eq_step s).symm
  unfold Sys2Proof.core coreAt
  rw [hstep]
  rfl

/-- Settles O60: the rules of BEDGE and the window bounds above, at every width. -/
theorem everyWidthFollowsTheSameRules : Obligations.EveryWidthFollowsTheSameRules := by
  refine ⟨rfl, fun w => decide_eq_true_iff, core_eq_coreAt, execAt_eq_exec, stepAt_eq_step, ?bedge, ?wide,
    by decide, by decide, fun w hw => ⟨two_pow_le_dblclickUs hw, insideDoubleClick_of_narrow hw⟩⟩
  case bedge =>
    intro w s
    refine ⟨⟨_, stepAt_eq s⟩, ?disabled, ?discarded, ?release, ?press⟩
    case disabled =>
      intro hoff
      have ha : ¬ edgeAccepted s = true := by simp [edgeAccepted_iff_mod, hoff]
      rw [execAt_eq, effect, edgeEffect_of_not_accepted ha]
    case discarded =>
      intro _ hearly
      have ha : ¬ edgeAccepted s = true := fun ha => absurd ((edgeAccepted_iff_mod s).1 ha).2 hearly.not_ge
      rw [execAt_eq, effect, edgeEffect_of_not_accepted ha]
    case release =>
      intro hon hlate hb
      rw [execAt_eq, effect, edgeEffect_of_release ((edgeAccepted_iff_mod s).2 ⟨hon, hlate⟩) hb]
      simp only [insideDoubleClick_iff, toNat_sub_eq_mod]
    case press =>
      intro hon hlate hb
      rw [execAt_eq, effect, edgeEffect_of_press ((edgeAccepted_iff_mod s).2 ⟨hon, hlate⟩) hb]
  case wide =>
    intro w hw t gap hpos hle
    exact ⟨insideDoubleClick_add_gap hw t hpos hle, not_insideDoubleClick_sub_gap hw t hpos hle⟩

end Sys2Proof.Machine
end

section
/-! PROOFS. The flags and the button's registers over one cycle, the reset values, and the counters' wrap (R22, R25, R27,
R29 to R33). -/

namespace Sys2Proof.Machine

variable {w : Nat}

/-! ## What an instruction and a transaction do to the flags -/

/-- A host command lowers the flags it clears and leaves every other flag as it was (R25). -/
theorem readFlag_effect_of_not_event {i : Instr} (hb : i ≠ .bedge) (hq : ∀ sym, i ≠ .qsample sym) (f : Flag)
    (s : State.At w) : readFlag f (effect i s).flags = (readFlag f s.flags && !clearsFlag f i) := by
  cases i with
  | bedge => exact absurd rfl hb
  | qsample sym => exact absurd rfl (hq sym)
  | getDiff clr => cases clr <;> simp [effect, clearsFlag]
  | isMoved _ | isPressed _ | isClicked _ | isDoubleClicked _ =>
    simp [effect, clearsFlag, readFlagCommand_flags, Bool.and_comm, beq_eq_decide]
  | _ => simp [effect, clearsFlag]

/-- A flag after the host command of a cycle: lowered exactly by a defined command that clears it (R25, R76). -/
theorem readFlag_commandEffect (f : Flag) (c : CycleInput.At w) (s : State.At w) :
    readFlag f (commandEffect c s).flags =
      (readFlag f s.flags && !(c.command.bind fun word => (decodeCommand word).toOption).any (clearsFlag f)) := by
  obtain ⟨i, hi, hb, hq, h⟩ | ⟨hnone, h | h⟩ := commandEffect_cases c s
  · simp [hi, h, readFlag_effect_of_not_event hb hq]
  · simp [hnone, h]
  · simp [hnone, h, respondIllegal]

/-- The QSAMPLE of a cycle drops no flag (R104). -/
theorem sampleEvent_keeps_raised {f : Flag} {s : State.At w} (ws : List EventWord) (hf : readFlag f s.flags = true) :
    readFlag f (eventEffect (sampleOf ws) s).flags = true := by
  cases h : sampleOf ws with
  | none => exact hf
  | some i =>
    obtain ⟨sym, rfl⟩ := sampleOf_eq_some h
    simp [eventEffect, effect, sampleEffect_flags, hf]

/-- A word of the command port decodes to no event (R75). -/
theorem not_event_of_decodeCommand {word : CommandWord} {i : Instr} (hd : decodeCommand word = .ok i) :
    i ≠ .bedge ∧ ∀ sym, i ≠ .qsample sym := by
  obtain ⟨j, hj, hb, hq, -⟩ | ⟨hnone, -⟩ :=
    commandEffect_cases (quietInput State.reset (some word) []) State.reset
  · have hij : i = j := by simpa [quietInput, hd, Except.toOption] using hj
    exact hij ▸ ⟨hb, hq⟩
  · simp [quietInput, hd, Except.toOption] at hnone

/-- What QSAMPLE does to the other fields does not depend on the flags (R27). -/
theorem sampleEffect_with_flags (sym : BitVec 2) (s : State.At w) (fl : BitVec 4) :
    sampleEffect sym { s with flags := fl } =
      { sampleEffect sym s with flags := (sampleEffect sym { s with flags := fl }).flags } := by
  simp only [sampleEffect, putHist_hist]
  split <;> rfl

/-- What BEDGE does to the other fields does not depend on the flags (R27). -/
theorem edgeEffect_with_flags (s : State.At w) (fl : BitVec 4) :
    edgeEffect { s with flags := fl } =
      { edgeEffect s with flags := (edgeEffect { s with flags := fl }).flags } := by
  have ha : edgeAccepted { s with flags := fl } = edgeAccepted s := rfl
  apply state_ext <;> simp [edgeEffect_btn, edgeEffect_debounceTs, edgeEffect_lastClick, ha]

/-! ## A cycle without RST, transaction by transaction -/

/-- The state in which the next cycle's events run: its host command has been taken (R53). -/
def afterCommand (s : State) : State := commandEffect (nextInput s) (beginCycle (nextInput s) (takeInput s))

/-- The state in which the next cycle's BEDGE runs: its QSAMPLE has been taken too (R53). -/
def beforeEdge (s : State) : State := eventEffect (nextSample s) (afterCommand s)

theorem nextSample_of_no_rst {s : State} (hr : (nextInput s).rst = false) : nextSample s = sampleOf (nextWords s) := by
  simp [nextSample, hr]

theorem nextEdge_of_no_rst {s : State} (hr : (nextInput s).rst = false) : nextEdge s = edgeOf (nextWords s) := by
  simp [nextEdge, hr]

/-- A cycle without RST ends with its BEDGE, if it takes one, and the levels (R53). -/
theorem step_next_of_no_rst {s t : State} (h : step s = .next t) (hr : (nextInput s).rst = false) :
    t = latchLevels (nextInput s) (eventEffect (nextEdge s) (beforeEdge s)) := by
  rw [step_next h, beforeEdge, nextEdge_of_no_rst hr, nextSample_of_no_rst hr, cycleEffect, hr]
  rfl

/-- A flag after the host command of the next cycle: lowered exactly by a command that clears it (R25). -/
theorem readFlag_afterCommand {s : State} (hr : (nextInput s).rst = false) (f : Flag) :
    readFlag f (afterCommand s).flags = (readFlag f s.flags && !(nextCommand s).any (clearsFlag f)) := by
  simp [afterCommand, readFlag_commandEffect, nextCommand, hr, takeInput_keeps]

/-- No event lowers a flag: what is raised after the host command is raised after the cycle (R27, R55). -/
theorem step_keeps_raised {s t : State} {f : Flag} (h : step s = .next t) (hr : (nextInput s).rst = false)
    (hf : readFlag f (afterCommand s).flags = true) : readFlag f t.flags = true := by
  rw [step_next_of_no_rst h hr, beforeEdge, nextEdge_of_no_rst hr, nextSample_of_no_rst hr, latchLevels_flags]
  obtain ⟨-, -, -, -, hedge⟩ := edgeEvent_keeps (nextWords s) (eventEffect (sampleOf (nextWords s)) (afterCommand s))
  exact hedge f (sampleEvent_keeps_raised (nextWords s) hf)

/-- No host command writes the button's registers, and `now` is the cycle's TIME (R29 to R31, R131). -/
theorem afterCommand_button (s : State) :
    (afterCommand s).btn = s.btn ∧ (afterCommand s).debounceTs = s.debounceTs ∧
    (afterCommand s).lastClick = s.lastClick ∧ (afterCommand s).hasButton = s.hasButton ∧
    (afterCommand s).now = (nextInput s).now := by
  obtain ⟨-, hbutton⟩ := commandEffect_keeps (nextInput s) (beginCycle (nextInput s) (takeInput s))
  simpa [afterCommand, takeInput_keeps] using hbutton

/-- Nor does the QSAMPLE: the cycle's BEDGE finds them as the cycle began (R29 to R31, R104). -/
theorem beforeEdge_button {s : State} (hr : (nextInput s).rst = false) :
    (beforeEdge s).btn = s.btn ∧ (beforeEdge s).debounceTs = s.debounceTs ∧
    (beforeEdge s).lastClick = s.lastClick ∧ (beforeEdge s).hasButton = s.hasButton ∧
    (beforeEdge s).now = (nextInput s).now := by
  obtain ⟨hbtn, hts, hclick, hbutton, hnow, -⟩ := sampleEvent_keeps (nextWords s) (afterCommand s)
  rw [beforeEdge, nextSample_of_no_rst hr, hbtn, hts, hclick, hbutton, hnow]
  exact afterCommand_button s

/-- So that BEDGE is accepted by the state the cycle began in and the cycle's TIME (R131, R132). -/
theorem edgeAccepted_beforeEdge {s : State} (hr : (nextInput s).rst = false) :
    edgeAccepted (beforeEdge s) = true ↔
      s.hasButton = true ∧ 10000 ≤ ((nextInput s).now - s.debounceTs).toNat := by
  obtain ⟨-, hts, -, hbutton, hnow⟩ := beforeEdge_button hr
  rw [edgeAccepted_iff, hbutton, hnow, hts]

/-- Without a BEDGE, or with one that is not accepted, the cycle leaves everything as it was before its BEDGE (R131,
R135). -/
theorem nextEdge_effect_of_not_accepted {s : State} (hr : (nextInput s).rst = false)
    (h : ¬(nextEdge s = some .bedge ∧ edgeAccepted (beforeEdge s) = true)) :
    eventEffect (nextEdge s) (beforeEdge s) = beforeEdge s := by
  cases hedge : nextEdge s with
  | none => rfl
  | some i =>
    obtain rfl := edgeOf_eq_some (nextEdge_of_no_rst hr ▸ hedge)
    exact edgeEffect_of_not_accepted fun ha => h ⟨hedge, ha⟩

/-- A cycle without RST and without a command, in the capture cycle: the levels are latched and no event is taken
(R231). -/
theorem cycleEffect_of_capture {c : CycleInput.At w} {s : State.At w} (hcap : s.capture = true) (hr : c.rst = false)
    (hcmd : c.command = none) : cycleEffect c s = latchLevels c (beginCycle c s) := by
  simp [cycleEffect, hr, presentedWords, hcap, sampleOf, edgeOf, eventEffect, commandEffect, hcmd]

/-! ## The counters -/

/-- One indent clockwise, as signed numbers wrapped to 16 bits (R22, R106). -/
theorem countTurn_cw_toInt (v : Half) : (countTurn .cw v).toInt = Int.bmod (v.toInt + 1) (2 ^ 16) :=
  BitVec.toInt_add v 1

/-- One indent counter-clockwise (R22, R106). -/
theorem countTurn_ccw_toInt (v : Half) : (countTurn .ccw v).toInt = Int.bmod (v.toInt - 1) (2 ^ 16) :=
  BitVec.toInt_sub (x := v) (y := 1)

/-! ## The statements -/

/-- Settles O46: only the host command lowers a flag, and each event after it keeps what is raised. -/
theorem flagsFallOnlyByClearingCommand : Obligations.FlagsFallOnlyByClearingCommand := by
  intro s t f hstep hr hbefore hafter
  have hlowered : readFlag f (afterCommand s).flags = false :=
    Bool.eq_false_iff.2 fun hraised => by simp [step_keeps_raised hstep hr hraised] at hafter
  simpa [readFlag_afterCommand hr, hbefore, Option.any_eq_true] using hlowered

/-- Settles O47, by the flags and the frame of each event and of the host commands. -/
theorem eachFlagHasOneProducer : Obligations.EachFlagHasOneProducer := by
  refine ⟨?sample, ?edge, ?command, ?independent⟩
  case sample =>
    intro s t sym f ht
    obtain rfl := exec_next ht
    exact ⟨fun hf => by simp [effect, sampleEffect_flags, hf], fun hset => by simp [effect, sampleEffect_flags, hset]⟩
  case edge =>
    intro s t f ht
    obtain rfl := exec_next ht
    exact ⟨fun hf => by simp [effect, edgeEffect_flags, hf], fun hset => by simp [effect, edgeEffect_flags, hset]⟩
  case command =>
    intro word i s t f hd ht hclear
    obtain ⟨hb, hq⟩ := not_event_of_decodeCommand hd
    rw [exec_next ht, readFlag_effect_of_not_event hb hq, hclear, Bool.false_and]
  case independent =>
    intro i s t u fl hi ht hu
    rw [exec_next ht, exec_next hu]
    obtain rfl | ⟨sym, rfl⟩ := hi
    · exact edgeEffect_with_flags s fl
    · exact sampleEffect_with_flags sym s fl

/-- Settles O56: BEDGE's own fields, read from the state its cycle leaves before it. -/
theorem acceptedEdgesAloneWriteButtonRegisters : Obligations.AcceptedEdgesAloneWriteButtonRegisters := by
  refine ⟨rfl, rfl, fun s t hstep hr => ?_⟩
  obtain ⟨hbtn, hts, hclick, -, hnow⟩ := beforeEdge_button hr
  have ht := step_next_of_no_rst hstep hr
  intro accepted
  by_cases h : accepted
  · have ha := (edgeAccepted_beforeEdge hr).2 h.2
    have hedge : eventEffect (nextEdge s) (beforeEdge s) = edgeEffect (beforeEdge s) := by rw [h.1]; rfl
    rw [ht, hedge]
    refine ⟨fun _ => ?_, fun hn => absurd h hn, fun _ hpressed => ?_, fun hn => ?_⟩
    · simp [edgeEffect_btn, edgeEffect_debounceTs, ha, hbtn, hnow]
    · simp [edgeEffect_lastClick, ha, hbtn, hpressed, hnow]
    · have hreleased : s.btn ≠ .pressed := fun hpressed => hn ⟨h, hpressed⟩
      simp [edgeEffect_lastClick, hbtn, hreleased, hclick]
  · have hkept := nextEdge_effect_of_not_accepted hr fun ⟨hedge, ha⟩ => h ⟨hedge, (edgeAccepted_beforeEdge hr).1 ha⟩
    rw [ht, hkept]
    exact ⟨fun ha => absurd ha h, fun _ => ⟨hbtn, hts⟩, fun ha => absurd ha h, fun _ => hclick⟩

/-- Settles O9: the table by evaluation, and the capture cycle for any inputs. -/
theorem resetLeavesTableValues : Obligations.ResetLeavesTableValues := by
  refine ⟨rfl, rfl, rfl, rfl, rfl, rfl, rfl, fun c cs hr hcmd => ⟨_, step_of_cons rfl, ?_⟩⟩
  rw [cycleEffect_of_capture rfl hr hcmd]
  exact ⟨rfl, rfl, rfl, rfl, rfl, rfl, rfl, rfl, rfl, rfl⟩

/-- Settles O25: a match moves each counter by one indent, whose signed value wraps. -/
theorem countersWrap : Obligations.CountersWrap := by
  intro s sym
  constructor
  · intro hpat
    have hmatch : matchTurn (shiftHist s.hist sym) = some .cw := by rw [shiftHist, hpat]; rfl
    refine ⟨_, exec_eq _ s, ?_⟩
    rw [effect, sampleEffect_of_some hmatch]
    exact ⟨countTurn_cw_toInt _, countTurn_cw_toInt _, fun h => by simp [h, countTurn],
      fun h => by simp [h, countTurn], rfl⟩
  · intro hpat
    have hmatch : matchTurn (shiftHist s.hist sym) = some .ccw := by rw [shiftHist, hpat]; rfl
    refine ⟨_, exec_eq _ s, ?_⟩
    rw [effect, sampleEffect_of_some hmatch]
    exact ⟨countTurn_ccw_toInt _, countTurn_ccw_toInt _, fun h => by simp [h, countTurn],
      fun h => by simp [h, countTurn], rfl⟩

end Sys2Proof.Machine
end

section
/-! PROOFS. Transactions one after another: what a list of them does, which of a cycle's event words are taken, the order
within a cycle, and repeated host commands (R53, R60). -/

namespace Sys2Proof.Machine

variable {w : Nat}

/-! ## Instructions one after another -/

@[simp] theorem runInstrs_nil (s : State) : runInstrs [] s = .next s := rfl

/-- Each transaction runs on the state the one before it left (R53). -/
@[simp] theorem runInstrs_cons (i : Instr) (is : List Instr) (s : State) :
    runInstrs (i :: is) s = runInstrs is (effect i s) := by
  rw [runInstrs, exec_eq, andThen_next]

/-- A transaction that may be absent, in front of others. -/
theorem runInstrs_toList_append (o : Option Instr) (is : List Instr) (s : State) :
    runInstrs (o.toList ++ is) s = runInstrs is (eventEffect o s) := by
  cases o with
  | none => rfl
  | some i => exact runInstrs_cons i is s

/-- The three transactions a cycle may take, in the cycle's order (R53). -/
theorem runInstrs_of_transactions (host sample edge : Option Instr) (s : State) :
    runInstrs (host.toList ++ sample.toList ++ edge.toList) s =
      .next (eventEffect edge (eventEffect sample (eventEffect host s))) := by
  rw [List.append_assoc, runInstrs_toList_append, runInstrs_toList_append, ← List.append_nil edge.toList,
    runInstrs_toList_append, runInstrs_nil]

/-! ## The event words a cycle takes -/

@[simp] theorem asSample_sampleWord (sym : BitVec 2) : asSample (sym.setWidth 8) = some (.qsample sym) := by
  revert sym; decide

@[simp] theorem asEdge_sampleWord (sym : BitVec 2) : asEdge (sym.setWidth 8) = none := by
  revert sym; decide

@[simp] theorem asSample_edgeWord : asSample 0x40#8 = none := by decide

@[simp] theorem asEdge_edgeWord : asEdge 0x40#8 = some .bedge := by decide

/-- At most one word of each kind, in either order: each is taken (R53). -/
theorem sampleOf_edgeOf_of_words {ws : List EventWord} {sample : Option (BitVec 2)} {edge : Bool}
    (hws : ws = (sample.map (BitVec.setWidth 8)).toList ++ (if edge then [0x40#8] else []) ∨
      ws = (if edge then [0x40#8] else []) ++ (sample.map (BitVec.setWidth 8)).toList) :
    sampleOf ws = sample.map .qsample ∧ edgeOf ws = if edge then some .bedge else none := by
  obtain rfl | rfl := hws <;> cases sample <;> cases edge <;> simp [sampleOf, edgeOf]

/-- Of the words presented, only the QSAMPLE and the BEDGE taken of them matter (R53, R82). -/
theorem step_presenting_congr (s : State) (cmd : Option CommandWord) (now : Timestamp) {ws ws' : List EventWord}
    (hsample : sampleOf ws = sampleOf ws') (hedge : edgeOf ws = edgeOf ws') :
    step (presenting s cmd ws now) = step (presenting s cmd ws' now) := by
  rw [step_presenting, step_presenting, hsample, hedge]
  rfl

/-! ## The cycle as its transactions -/

/-- The host command of a cycle, if it is a defined one, as a transaction that may be absent (R53, R75). -/
theorem commandEffect_of_decoded {c : CycleInput.At w} {cmd : Option (CommandWord × Instr)}
    (hc : c.command = cmd.map Prod.fst) (hd : ∀ word i, cmd = some (word, i) → decodeCommand word = .ok i)
    (s : State.At w) : commandEffect c s = eventEffect (cmd.map Prod.snd) s := by
  cases cmd with
  | none => simp [commandEffect, hc, eventEffect]
  | some p => simp [commandEffect, hc, eventEffect, hd p.1 p.2 rfl]

/-- No transaction moves the previous levels or the capture mark. -/
theorem eventEffect_keeps_levels (o : Option Instr) (s : State.At w) :
    (eventEffect o s).qaPrev = s.qaPrev ∧ (eventEffect o s).qbPrev = s.qbPrev ∧
    (eventEffect o s).btnPrev = s.btnPrev ∧ (eventEffect o s).capture = s.capture := by
  cases o with
  | none => simp [eventEffect]
  | some i => simp [eventEffect, effect_keeps]

/-- Where no pin changes and the capture cycle is over, the levels stored are those that stood there (R100, R130). -/
theorem latchLevels_quietInput {s t : State.At w} (cmd : Option CommandWord) (ws : List EventWord)
    (hqa : t.qaPrev = s.qaPrev) (hqb : t.qbPrev = s.qbPrev) (hbtn : t.btnPrev = s.btnPrev) (hcap : t.capture = false) :
    latchLevels (quietInput s cmd ws) t = t := by
  apply state_ext <;> simp [quietInput, hqa, hqb, hbtn, hcap]

/-- Settles O41: the step runs its command, its QSAMPLE and its BEDGE as `runInstrs` does. -/
theorem sameCycleOrderIsHostSampleEdge : Obligations.SameCycleOrderIsHostSampleEdge := by
  refine ⟨?presented, ?oneOfAKind, ?frontEnds⟩
  case presented =>
    intro s cmd sample edge now ws hd hws
    obtain ⟨hsample, hedge⟩ := sampleOf_edgeOf_of_words hws
    have hlist : (if edge then [Instr.bedge] else []) = (if edge then some Instr.bedge else none).toList := by
      cases edge <;> rfl
    refine ⟨none, _, ?_, step_presenting s _ ws now⟩
    rw [hlist, runInstrs_of_transactions, hsample, hedge, commandEffect_of_decoded rfl hd,
      latchLevels_quietInput] <;> simp [eventEffect_keeps_levels]
  case oneOfAKind =>
    exact fun s cmd now a b =>
      .inl (step_presenting_congr s cmd now (by simp [sampleOf]) (by simp [edgeOf]))
  case frontEnds =>
    intro s word i hr hcap hcmd hd hev hsym hbutton hbtn
    have hsample : sampleOf (presentedWords (nextInput s) (takeInput s)) =
        some (.qsample (symbolOf (nextInput s).qa (nextInput s).qb)) := by
      simp [sampleOf_frontEnd _ _ hev, takeInput_keeps, hcap, hsym]
    have hedge : edgeOf (presentedWords (nextInput s) (takeInput s)) = some .bedge := by
      simp [edgeOf_frontEnd _ _ hev, takeInput_keeps, hcap, hbutton, hbtn]
    have hcommand : commandEffect (nextInput s) (beginCycle (nextInput s) (takeInput s)) =
        effect i (beginCycle (nextInput s) (takeInput s)) := by
      simp [commandEffect, hcmd, hd]
    refine ⟨none, _, runInstrs_of_transactions (some i) (some (.qsample _)) (some .bedge) _, ?_⟩
    rw [step_eq, cycleEffect, hr, hsample, hedge, hcommand]
    rfl

/-! ## Repeated host commands -/

/-- A flag just read with clear reads 0 (R60, R163 to R166). -/
theorem readFlagCommand_clear_twice (f : Flag) (s : State.At w) :
    (readFlagCommand f true (readFlagCommand f true s)).response = some ⟨false, 0⟩ := by
  simp [readFlagCommand_flags]

/-- GET_COUNT and the peeks change the response port alone, to a response that does not depend on the one that stood there
(R60). -/
theorem effect_of_read {i : Instr}
    (hi : i ∈ [Instr.getCount, .getDiff false, .isMoved false, .isPressed false, .isClicked false,
      .isDoubleClicked false]) (s : State.At w) :
    ∃ r, ∀ old, effect i { s with response := old } = { s with response := some r } := by
  simp only [List.mem_cons, List.not_mem_nil, or_false] at hi
  obtain rfl | rfl | rfl | rfl | rfl | rfl := hi
  · exact ⟨⟨false, s.position⟩, fun _ => rfl⟩
  · exact ⟨⟨false, s.delta⟩, fun _ => rfl⟩
  · exact ⟨⟨false, boolData (readFlag .moved s.flags)⟩, fun _ => rfl⟩
  · exact ⟨⟨false, boolData (readFlag .pressed s.flags)⟩, fun _ => rfl⟩
  · exact ⟨⟨false, boolData (readFlag .clicked s.flags)⟩, fun _ => rfl⟩
  · exact ⟨⟨false, boolData (readFlag .doubleClicked s.flags)⟩, fun _ => rfl⟩

/-- Settles O21: what a clearing read leaves reads 0, and the other host commands leave a state they do not change. -/
theorem readsAreIdempotent : Obligations.ReadsAreIdempotent := by
  refine ⟨?clearing, ?reading, fun v s => ?_, fun s => ?_⟩
  case clearing =>
    intro i hi s
    refine ⟨effect i (effect i s), by simp, ?_⟩
    simp only [List.mem_cons, List.not_mem_nil, or_false] at hi
    obtain rfl | rfl | rfl | rfl | rfl := hi
    · rfl
    all_goals exact readFlagCommand_clear_twice _ s
  case reading =>
    intro i hi s
    obtain ⟨r, hr⟩ := effect_of_read hi s
    have hfirst : effect i s = { s with response := some r } := hr s.response
    exact ⟨r, by rw [exec_eq, hfirst], by simp only [runInstrs_cons, runInstrs_nil, hfirst, hr]⟩
  · simp only [runInstrs_cons, runInstrs_nil, exec_eq]
    rfl
  · simp only [runInstrs_cons, runInstrs_nil, exec_eq]
    rfl

end Sys2Proof.Machine
end

section
/-! PROOFS. The decoders by the words of the encoder, the OP map's rows as match and mask, and the fields of format H as
numbers (R70 to R81). -/

namespace Sys2Proof

/-! ## The decoders by the words of the encoder -/

/-- A command word is determined by its four fields (R70). -/
theorem commandWord_eq_iff (op : BitVec 4) (peek : Bool) (data : Half) (w : CommandWord) :
    commandWord op peek data = w ↔
      opField w = op ∧ rsvField w = 0 ∧ peekField w = peek ∧ dataField w = data := by
  constructor
  · rintro rfl
    simp
  · rintro ⟨rfl, hrsv, rfl, rfl⟩
    exact commandWord_of_fields w hrsv

/-- A command is accepted exactly where its word meets the constraint (R75). -/
theorem commandIf_eq_ok {ok : Bool} {i j : Instr} : commandIf ok i = .ok j ↔ ok = true ∧ i = j := by
  cases ok <;> simp [commandIf]

/-- Every instruction is read back from its word (R72, R80). -/
theorem decode_encode (i : Instr) : decode (encode i) = .ok i := by
  cases i with
  | getCount => exact Laws.Encoding.getCount
  | setCount v => exact Laws.Encoding.setCount v
  | getDiff clr => exact Laws.Encoding.getDiff clr
  | isMoved clr => exact Laws.Encoding.isMoved clr
  | isPressed clr => exact Laws.Encoding.isPressed clr
  | isClicked clr => exact Laws.Encoding.isClicked clr
  | isDoubleClicked clr => exact Laws.Encoding.isDoubleClicked clr
  | clear => exact Laws.Encoding.clear
  | qsample sym => exact Laws.Encoding.qsample sym
  | bedge => exact Laws.Encoding.bedge

/-- A command word decodes to an instruction exactly when it is that instruction's word: each arm of the decoder fixes
all four fields (R72, R75). -/
theorem decodeCommand_eq_ok_iff {w : CommandWord} {i : Instr} : decodeCommand w = .ok i ↔ encode i = .host w := by
  refine ⟨fun h => ?_, fun h => (congrArg decode h).symm.trans (decode_encode i)⟩
  unfold decodeCommand at h
  split at h
  · cases h
  next hrsv =>
    split at h
    case h_9 => cases h
    all_goals
      next hop =>
        obtain ⟨hok, rfl⟩ := commandIf_eq_ok.1 h
        refine congrArg PortWord.host
          ((commandWord_eq_iff _ _ _ w).2 ⟨BitVec.eq_of_toNat_eq hop, not_not.1 hrsv, ?_, ?_⟩) <;>
        simp_all [clrOf]

/-- An event word decodes to an instruction exactly when it is that instruction's word (R80, R81). -/
theorem decodeEvent_eq_ok_iff {e : EventWord} {i : Instr} : decodeEvent e = .ok i ↔ encode i = .event e := by
  refine ⟨fun h => ?_, fun h => (congrArg decode h).symm.trans (decode_encode i)⟩
  obtain ⟨sym, rfl⟩ | rfl := decodeEvent_ok h
  · revert e sym; decide
  · revert e; decide

/-- The event port's decoder does not answer ILLEGAL (R81). -/
theorem decodeEvent_ne_illegalCommand (e : EventWord) : decodeEvent e ≠ .error .illegalCommand := by
  revert e; decide

/-- An event word that decodes to no instruction is ILLEGAL_EVENT (R81). -/
theorem decodeEvent_eq_error_iff {e : EventWord} :
    decodeEvent e = .error .illegalEvent ↔ ∀ i, decodeEvent e ≠ .ok i := by
  rcases h : decodeEvent e with r | i
  · cases r with
    | illegalCommand => exact absurd h (decodeEvent_ne_illegalCommand e)
    | illegalEvent => simp
  · simp

/-! ## The fields of format H as numbers (R70) -/

theorem opField_toNat (w : CommandWord) : (opField w).toNat = w.toNat / 2 ^ 28 := by
  simp only [opField, BitVec.extractLsb'_toNat, Nat.shiftRight_eq_div_pow]
  omega

theorem rsvField_eq_zero_iff (w : CommandWord) : rsvField w = 0 ↔ w.toNat / 2 ^ 17 % 2 ^ 11 = 0 := by
  rw [← BitVec.toNat_inj, rsvField, BitVec.extractLsb'_toNat, Nat.shiftRight_eq_div_pow]
  rfl

theorem not_peekField_eq (w : CommandWord) : (!peekField w) = decide (w.toNat / 2 ^ 16 % 2 = 0) := by
  simp only [peekField, BitVec.getLsbD, Nat.testBit_eq_decide_div_mod_eq, ← decide_not, Nat.mod_two_not_eq_one]

theorem dataField_eq_setWidth (w : CommandWord) : dataField w = w.setWidth 16 :=
  BitVec.eq_of_toNat_eq (by simp [dataField])

theorem dataField_eq_ofNat (w : CommandWord) : dataField w = BitVec.ofNat 16 (w.toNat % 2 ^ 16) :=
  BitVec.eq_of_toNat_eq (by simp [dataField])

theorem dataField_eq_zero_iff (w : CommandWord) : dataField w = 0 ↔ w.toNat % 2 ^ 16 = 0 := by
  rw [← BitVec.toNat_inj, dataField_eq_setWidth, BitVec.toNat_setWidth]
  rfl

/-- Words with `OP` 0x8 to 0xF are ILLEGAL (R72, R75). -/
theorem decodeCommand_of_reserved_op {w : CommandWord} (h : 8 ≤ w.toNat / 2 ^ 28) :
    decodeCommand w = .error .illegalCommand := by
  unfold decodeCommand
  split
  · rfl
  · rw [opField_toNat]
    split
    case h_9 => rfl
    all_goals omega

/-! ## Rows of the OP map as match and mask (R72) -/

/-- A masked word meets a match without PEEK and DATA exactly when its four masked fields do. -/
theorem and_eq_commandWord_iff (w mask : CommandWord) (op : BitVec 4) :
    w &&& mask = commandWord op false 0 ↔
      opField w &&& opField mask = op ∧ rsvField w &&& rsvField mask = 0 ∧
      (peekField w && peekField mask) = false ∧ dataField w &&& dataField mask = 0 := by
  rw [eq_comm, commandWord_eq_iff]
  simp only [opField, rsvField, peekField, dataField, BitVec.extractLsb'_and, BitVec.getLsbD_and]

/-- The mask of a command without operands has every bit. -/
theorem commandWord_eq_iff_row (op : BitVec 4) (w : CommandWord) :
    commandWord op false 0 = w ↔ w &&& 0xFFFFFFFF#32 = commandWord op false 0 := by
  rw [eq_comm, show w &&& 0xFFFFFFFF#32 = w from BitVec.and_allOnes]

/-- The mask of SET_COUNT leaves out `DATA`, its operand. -/
theorem commandWord_eq_iff_row_of_data (op : BitVec 4) (v : Half) (w : CommandWord) :
    commandWord op false v = w ↔ w &&& 0xFFFF0000#32 = commandWord op false 0 ∧ w.setWidth 16 = v := by
  have hop : opField 0xFFFF0000#32 = BitVec.allOnes 4 := by decide
  have hrsv : rsvField 0xFFFF0000#32 = BitVec.allOnes 11 := by decide
  have hpeek : peekField 0xFFFF0000#32 = true := by decide
  have hdata : dataField 0xFFFF0000#32 = 0 := by decide
  rw [and_eq_commandWord_iff, commandWord_eq_iff, hop, hrsv, hpeek, hdata]
  simp only [BitVec.and_allOnes, Bool.and_true]
  simp [dataField_eq_setWidth, and_assoc]

/-- The mask of a read leaves out `PEEK`, the inverse of its operand (R71). -/
theorem commandWord_eq_iff_row_of_peek (op : BitVec 4) (clr : Bool) (w : CommandWord) :
    commandWord op (!clr) 0 = w ↔ w &&& 0xFFFEFFFF#32 = commandWord op false 0 ∧ clr = !w.getLsbD 16 := by
  have hop : opField 0xFFFEFFFF#32 = BitVec.allOnes 4 := by decide
  have hrsv : rsvField 0xFFFEFFFF#32 = BitVec.allOnes 11 := by decide
  have hpeek : peekField 0xFFFEFFFF#32 = false := by decide
  have hdata : dataField 0xFFFEFFFF#32 = BitVec.allOnes 16 := by decide
  rw [and_eq_commandWord_iff, commandWord_eq_iff, hop, hrsv, hpeek, hdata]
  simp only [BitVec.and_allOnes, Bool.and_false, true_and, and_assoc, peekField]
  cases clr <;> simp [and_comm]

/-- The row of QSAMPLE (R80, R81). -/
theorem eventWord_eq_iff_row_of_sym (sym : BitVec 2) (e : EventWord) :
    eventWord 0b00#2 sym = e ↔ e &&& 0xFC#8 = 0x00#8 ∧ e.setWidth 2 = sym := by
  revert e sym; decide

/-! ## The obligations -/

/-- Settles O2: a word decodes to a row's command when it is the row's word, which the row's mask and match describe. -/
theorem commandWordsFollowOpMap : Obligations.CommandWordsFollowOpMap := by
  intro w
  simp only [decodeCommand_eq_ok_iff, encode, PortWord.host.injEq]
  exact ⟨commandWord_eq_iff_row 0 w, fun v => commandWord_eq_iff_row_of_data 1 v w,
    fun clr => commandWord_eq_iff_row_of_peek 2 clr w, fun clr => commandWord_eq_iff_row_of_peek 3 clr w,
    fun clr => commandWord_eq_iff_row_of_peek 4 clr w, fun clr => commandWord_eq_iff_row_of_peek 5 clr w,
    fun clr => commandWord_eq_iff_row_of_peek 6 clr w, commandWord_eq_iff_row 7 w, decodeCommand_of_reserved_op⟩

/-- Settles O3: each field is the number the pseudocode reads, and then the arms agree opcode by opcode. -/
theorem commandDecoderFollowsPseudocode : Obligations.CommandDecoderFollowsPseudocode := by
  intro w
  simp only [decodeCommand, commandIf, clrOf, ne_eq, opField_toNat, rsvField_eq_zero_iff, not_peekField_eq, beq_iff_eq,
    dataField_eq_zero_iff, Bool.and_eq_true, decide_eq_true_iff]
  rw [dataField_eq_ofNat]
  by_cases hrsv : w.toNat / 2 ^ 17 % 2 ^ 11 = 0
  · simp only [hrsv, not_true_eq_false, if_false]
    generalize w.toNat / 2 ^ 28 = op
    match op with
    | 0 | 1 | 2 | 3 | 4 | 5 | 6 | 7 => rfl
    | n + 8 => simp
  · simp only [hrsv, not_false_eq_true, if_true]

/-- Settles O4: the two events by their words, and ILLEGAL_EVENT as what is neither. -/
theorem eventDecoderFollowsPseudocode : Obligations.EventDecoderFollowsPseudocode := by
  intro e
  have hsample (sym) : decodeEvent e = .ok (.qsample sym) ↔ e &&& 0xFC#8 = 0x00#8 ∧ e.setWidth 2 = sym := by
    rw [decodeEvent_eq_ok_iff, encode, PortWord.event.injEq, eventWord_eq_iff_row_of_sym]
  have hedge : decodeEvent e = .ok .bedge ↔ e = 0x40#8 := by
    rw [decodeEvent_eq_ok_iff, encode, PortWord.event.injEq]
    exact eq_comm
  refine ⟨hsample, hedge, decodeEvent_eq_error_iff.trans ⟨fun h => ?_, ?_⟩⟩
  · exact ⟨fun hmatch => h _ ((hsample _).2 ⟨hmatch, rfl⟩), fun he => h _ (hedge.2 he)⟩
  · rintro ⟨hmatch, he⟩ i hi
    obtain ⟨sym, rfl⟩ | rfl := decodeEvent_ok hi
    · exact hmatch ((hsample sym).1 hi).1
    · exact he (hedge.1 hi)

end Sys2Proof
end

section
/-! PROOFS. What the assembler makes of its lines, and the API calls as lines (R83, R85). -/

namespace Sys2Proof.Machine

/-- SET_COUNT assembles exactly where its operand is in range (R83). -/
theorem assemble_setCount (v : Literal) :
    assemble ⟨.setCount, false, some v⟩ = if v.inRange then some (.setCount (literalBits v)) else none := rfl

/-- The assembler refuses `.PEEK` on a mnemonic that does not take it (R83). -/
theorem assemble_peek_refused {m : Mnemonic} (hm : m.takesPeek = false) (v : Option Literal) :
    assemble ⟨m, true, v⟩ = none := by
  simp [assemble, AsmLine.wellFormed, AsmLine.peekOk, hm]

/-- The word of SET_COUNT carries its operand in the low half (R83). -/
theorem commandWord_setCount (v : Half) : commandWord 0x1#4 false v = 0x10000000#32 ||| v.setWidth 32 := by
  rw [commandWord, BitVec.append_def]
  rfl

/-- The word of a SET_COUNT line whose operand is in range (R83). -/
theorem encode_assemble_setCount {v : Literal} (hv : v.inRange = true) :
    (assemble ⟨.setCount, false, some v⟩).map encode =
      some (.host (0x10000000#32 ||| (literalBits v).setWidth 32)) := by
  rw [assemble_setCount, if_pos hv, Option.map_some, encode, commandWord_setCount]

/-- Settles O7: the fixed lines by evaluation from their characters, SET_COUNT by its operand's range. -/
theorem assemblerFollowsSyntaxTable : Obligations.AssemblerFollowsSyntaxTable := by
  refine ⟨?fixedLines, fun v hv => ?decimal, fun v hv => ?decimalRefused, fun v hv => ?hex, fun v hv => ?hexRefused,
    fun v => ⟨assemble_peek_refused rfl v, assemble_peek_refused rfl v, assemble_peek_refused rfl v⟩⟩
  case fixedLines => decide
  case decimal => exact encode_assemble_setCount (v := .dec v) (decide_eq_true hv)
  case decimalRefused => exact (assemble_setCount (.dec v)).trans (if_neg (by simpa [Literal.inRange] using hv))
  case hex => exact encode_assemble_setCount (v := .hex v) (decide_eq_true hv)
  case hexRefused => exact (assemble_setCount (.hex v)).trans (if_neg (by simpa [Literal.inRange] using hv))

/-- Settles O8: SET_COUNT by its operand's range, and the reads with `clearOnRead` absent, false and true. -/
theorem apiCallsExpandToCommands : Obligations.ApiCallsExpandToCommands := by
  refine ⟨rfl, fun v hv => ?decimal, fun v hv => ?hex, fun c => ?reads, rfl, rfl⟩
  case decimal => exact (assemble_setCount (.dec v)).trans (if_pos (decide_eq_true hv))
  case hex => exact (assemble_setCount (.hex v)).trans (if_pos (decide_eq_true hv))
  case reads => rcases c with _ | _ | _ <;> exact ⟨rfl, rfl, rfl, rfl, rfl⟩

end Sys2Proof.Machine
end

section
/-! PROOFS. Cycles with an undefined word at either port (R76, R82). -/

namespace Sys2Proof.Machine

variable {w : Nat}

/-! ## An ILLEGAL command word (R76) -/

/-- An ILLEGAL word makes the block answer, and do nothing else. -/
theorem commandEffect_of_illegal {c : CycleInput.At w} {word : CommandWord} {r : Reject} (hc : c.command = some word)
    (hd : decodeCommand word = .error r) (s : State.At w) :
    commandEffect c s = { s with response := some ⟨true, 0x0000#16⟩ } := by
  simp only [commandEffect, hc, hd]
  rfl

/-- QSAMPLE neither reads nor writes the response port (R104). -/
theorem sampleEffect_with_response (sym : BitVec 2) (s : State.At w) (r : Option Response) :
    sampleEffect sym { s with response := r } = { sampleEffect sym s with response := r } := by
  simp only [sampleEffect, putHist_hist]
  split <;> rfl

/-- BEDGE neither reads nor writes the response port (R135). -/
theorem edgeEffect_with_response (s : State.At w) (r : Option Response) :
    edgeEffect { s with response := r } = { edgeEffect s with response := r } := by
  have ha : edgeAccepted { s with response := r } = edgeAccepted s := rfl
  have hflags : (edgeEffect { s with response := r }).flags = (edgeEffect s).flags := flags_ext fun f => by
    rw [edgeEffect_flags, edgeEffect_flags]
    rfl
  apply state_ext <;> simp [edgeEffect_btn, edgeEffect_debounceTs, edgeEffect_lastClick, ha, hflags]

/-- The QSAMPLE of a cycle, likewise. -/
theorem sampleEvent_with_response (ws : List EventWord) (s : State.At w) (r : Option Response) :
    eventEffect (sampleOf ws) { s with response := r } = { eventEffect (sampleOf ws) s with response := r } := by
  cases h : sampleOf ws with
  | none => rfl
  | some i =>
    obtain ⟨sym, rfl⟩ := sampleOf_eq_some h
    exact sampleEffect_with_response sym s r

/-- The BEDGE of a cycle, likewise. -/
theorem edgeEvent_with_response (ws : List EventWord) (s : State.At w) (r : Option Response) :
    eventEffect (edgeOf ws) { s with response := r } = { eventEffect (edgeOf ws) s with response := r } := by
  cases h : edgeOf ws with
  | none => rfl
  | some i =>
    obtain rfl := edgeOf_eq_some h
    exact edgeEffect_with_response s r

/-- Settles O52: the response is all an ILLEGAL word writes, and the cycle's events pass it through. -/
theorem illegalCommandChangesNothing : Obligations.IllegalCommandChangesNothing := by
  intro s word ws now hd
  constructor
  · rw [step_presenting, commandEffect_of_illegal rfl hd]
    rfl
  · refine ⟨_, step_presenting s none ws now, ?_⟩
    rw [step_presenting, commandEffect_of_illegal rfl hd]
    rw [sampleEvent_with_response, edgeEvent_with_response]
    rfl

/-! ## An ILLEGAL_EVENT word (R82) -/

/-- An ILLEGAL_EVENT is taken as neither event. -/
theorem asSample_asEdge_of_illegal {e : EventWord} {r : Reject} (he : decodeEvent e = .error r) :
    asSample e = none ∧ asEdge e = none := by
  simp [asSample, asEdge, he]

/-- A cycle with an ILLEGAL_EVENT among its words is as without it. -/
theorem step_presenting_illegal_event {e : EventWord} (he : decodeEvent e = .error .illegalEvent) (s : State)
    (cmd : Option CommandWord) (us vs : List EventWord) (now : Timestamp) :
    step (presenting s cmd (us ++ e :: vs) now) = step (presenting s cmd (us ++ vs) now) := by
  obtain ⟨hsample, hedge⟩ := asSample_asEdge_of_illegal he
  exact step_presenting_congr s cmd now (by simp [sampleOf, hsample]) (by simp [edgeOf, hedge])

/-- The front ends present words of QSAMPLE and BEDGE only (R79, R100, R130). -/
theorem mem_frontEnd_words {c : CycleInput.At w} {s : State.At w} {e : EventWord}
    (h : e ∈ quadratureWords c s ++ buttonWords c s) : (∃ a b, e = sampleWord a b) ∨ e = edgeWord := by
  unfold quadratureWords buttonWords at h
  obtain h | h := List.mem_append.1 h
  · split at h
    · exact .inl ⟨c.qa, c.qb, List.mem_singleton.1 h⟩
    · exact absurd h List.not_mem_nil
  · split at h
    · exact .inr (List.mem_singleton.1 h)
    · exact absurd h List.not_mem_nil

/-- Settles O53: alone, the cycle is one without events; the front ends' words are those of the two events. -/
theorem illegalEventChangesNothing : Obligations.IllegalEventChangesNothing := by
  refine ⟨fun s e now he => ⟨⟨none, ?alone⟩, fun cmd us vs => step_presenting_illegal_event he s cmd us vs now⟩,
    fun c s e he => ?frontEnds⟩
  case alone =>
    exact (step_presenting_illegal_event he s none [] [] now).trans (step_presenting s none [] now)
  case frontEnds =>
    obtain ⟨a, b, rfl⟩ | rfl := mem_frontEnd_words he
    · exact ⟨_, decodeEvent_sampleWord a b⟩
    · exact ⟨_, decodeEvent_edgeWord⟩

end Sys2Proof.Machine
end

section
/-! PROOFS. The quadrature: what a QSAMPLE writes, and the front end that makes it (R100 to R104). -/

namespace Sys2Proof.Machine

/-! ## QSAMPLE -/

/-- A history is recognized exactly when it is one of the two patterns (R103). -/
theorem matchTurn_isSome_iff {h : BitVec 8} : (matchTurn h).isSome = true ↔ h = 0x4B#8 ∨ h = 0x87#8 := by
  obtain ⟨rfl, hmatch⟩ | ⟨rfl, hmatch⟩ | ⟨hcw, hccw, hmatch⟩ := matchTurn_cases h
  · simp [hmatch]
  · simp [hmatch]
  · simp [hmatch, hcw, hccw]

/-- Any other history matches neither pattern (R103). -/
theorem matchTurn_eq_none {h : BitVec 8} (hcw : h ≠ 0x4B#8) (hccw : h ≠ 0x87#8) : matchTurn h = none := by
  rw [← Option.not_isSome_iff_eq_none, matchTurn_isSome_iff]
  exact not_or.2 ⟨hcw, hccw⟩

/-- Settles O23, by the three histories a QSAMPLE can leave. -/
theorem qsampleRecognizesIndents : Obligations.QsampleRecognizesIndents := by
  intro s sym
  refine ⟨_, exec_eq _ s, ?_⟩
  rw [effect, sampleEffect_hist]
  refine ⟨shiftHist_toNat s.hist sym, fun hcw => ?_, fun hccw => ?_, fun hcw hccw => ?_⟩
  · exact sampleEffect_of_some (d := .cw) (by rw [hcw]; rfl)
  · exact sampleEffect_of_some (d := .ccw) (by rw [hccw]; rfl)
  · exact sampleEffect_of_none (matchTurn_eq_none hcw hccw)

/-- Settles O24: the frame of QSAMPLE, and its flags one by one. -/
theorem qsampleWritesOnlyRotationState : Obligations.QsampleWritesOnlyRotationState := by
  intro s t sym ht
  obtain rfl := exec_next ht
  rw [effect, sampleEffect_hist]
  refine ⟨rfl, fun hcw hccw => ?noMatch, fun f hf => ?otherFlags, sampleEffect_btn sym s,
    sampleEffect_debounceTs sym s, sampleEffect_lastClick sym s, fun hpat => ?moved, fun f hset => ?noFall, by simp⟩
  case noMatch =>
    rw [sampleEffect_of_none (matchTurn_eq_none hcw hccw)]
    exact ⟨rfl, rfl, rfl⟩
  case otherFlags => simp [sampleEffect_flags, hf]
  case moved => simp [sampleEffect_flags, matchTurn_isSome_iff.2 hpat]
  case noFall => simp [sampleEffect_flags, hset]

/-! ## The quadrature front end -/

/-- The symbol tells both levels (R102). -/
theorem symbolOf_inj {a b a' b' : Level} : symbolOf a b = symbolOf a' b' ↔ a = a' ∧ b = b' := by
  revert a b a' b'; decide

/-- The symbol as a number, pin A in the high bit (R102). -/
theorem symbolOf_toNat (a b : Level) : (symbolOf a b).toNat = 2 * a.toNat + b.toNat := by
  revert a b; decide

/-- The QSAMPLE a cycle without RST makes of the pins (R100, R231). -/
theorem nextSample_of_pins {s : State} (hr : (nextInput s).rst = false) (he : (nextInput s).events = none) :
    nextSample s =
      if s.capture = false ∧ ((nextInput s).qa ≠ s.qaPrev ∨ (nextInput s).qb ≠ s.qbPrev) then
        some (.qsample (symbolOf (nextInput s).qa (nextInput s).qb))
      else none := by
  simp [nextSample_of_no_rst hr, nextWords, sampleOf_frontEnd _ _ he, takeInput_keeps, symbolOf_inj,
    ← not_and_or]

/-- No host command writes HIST (R23, R169). -/
theorem afterCommand_hist (s : State) : (afterCommand s).hist = s.hist := by
  obtain ⟨hcommand, -⟩ := commandEffect_keeps (nextInput s) (beginCycle (nextInput s) (takeInput s))
  simpa [afterCommand, takeInput_keeps] using hcommand

/-- Nor does a BEDGE: a cycle without RST leaves the HIST its QSAMPLE leaves (R23, R104, R135). -/
theorem step_hist_of_no_rst {s t : State} (h : step s = .next t) (hr : (nextInput s).rst = false) :
    t.hist = (eventEffect (nextSample s) (afterCommand s)).hist := by
  obtain ⟨-, -, hedge, -⟩ := edgeEvent_keeps (nextWords s) (beforeEdge s)
  rw [step_next_of_no_rst h hr, latchLevels_hist, nextEdge_of_no_rst hr, hedge, beforeEdge]

/-- A cycle that takes no QSAMPLE keeps HIST (R23). -/
theorem step_hist_of_no_sample {s t : State} (h : step s = .next t) (hr : (nextInput s).rst = false)
    (hs : nextSample s = none) : t.hist = s.hist := by
  rw [step_hist_of_no_rst h hr, hs, eventEffect, afterCommand_hist]

/-- A cycle that takes a QSAMPLE shifts its symbol into HIST (R23, R103). -/
theorem step_hist_of_sample {s t : State} {sym : BitVec 2} (h : step s = .next t) (hr : (nextInput s).rst = false)
    (hs : nextSample s = some (.qsample sym)) : t.hist = shiftHist s.hist sym := by
  rw [step_hist_of_no_rst h hr, hs, eventEffect, effect, sampleEffect_hist, afterCommand_hist]

/-- Settles O54: the front end's QSAMPLE, case by case, and what it does to HIST. -/
theorem quadratureFrontEndSamplesEdges : Obligations.QuadratureFrontEndSamplesEdges := by
  intro s c cs hstim hrst hevents
  obtain ⟨rfl, -⟩ := nextInput_of_cons hstim
  have hstep := step_eq s
  have hlatch := step_next_of_no_rst hstep hrst
  have hnone (h : nextSample s = none) := And.intro h (step_hist_of_no_sample hstep hrst h)
  have hpins := nextSample_of_pins hrst hevents
  refine ⟨_, hstep, by rw [hlatch, latchLevels_qaPrev], by rw [hlatch, latchLevels_qbPrev],
    fun hcap => hnone ?capture, fun hcap hqa hqb => hnone ?noChange, fun hcap hchange => ?change⟩
  case capture => simp [hpins, hcap]
  case noChange => simp [hpins, hqa, hqb]
  case change =>
    rw [if_pos ⟨hcap, hchange⟩] at hpins
    refine ⟨hpins, ?_⟩
    rw [step_hist_of_sample hstep hrst hpins, shiftHist_toNat, symbolOf_toNat, Nat.add_assoc]

end Sys2Proof.Machine
end

section
/-! PROOFS. The button: BEDGE's debounce and click windows, runs of BEDGEs, and the front end that makes them (R130 to R135,
R140, R146, R147). -/

namespace Sys2Proof.Machine

variable {w : Nat}

/-! ## What one BEDGE writes -/

/-- An accepted press raises no flag but Pressed (R134). -/
theorem edgeRaises_press_of_ne {s : State.At w} (ha : edgeAccepted s = true) (hb : s.btn = .released) {f : Flag}
    (hf : f ≠ .pressed) : edgeRaises s f = false := by
  obtain ⟨-, hclicked, hdouble⟩ := edgeRaises_press ha hb
  cases f with
  | moved => exact edgeRaises_moved s
  | pressed => exact absurd rfl hf
  | clicked => exact hclicked
  | doubleClicked => exact hdouble

/-- Settles O30: BEDGE at `TS_W` = 32 is the instance of its rules at every width. -/
theorem bedgeDebouncesAndToggles : Obligations.BedgeDebouncesAndToggles := by
  intro s
  obtain ⟨-, -, -, hexec, -, hwidths, -⟩ := everyWidthFollowsTheSameRules
  obtain ⟨-, hbedge⟩ := hwidths Config.tsW s
  simpa only [hexec] using hbedge

/-- Settles O31, by the fields and the flags of BEDGE's effect. -/
theorem bedgeWritesOnlyButtonState : Obligations.BedgeWritesOnlyButtonState := by
  intro s t ht
  obtain rfl := exec_next ht
  rw [effect, ← edgeAccepted_iff]
  refine ⟨edgeEffect_of_not_accepted, fun ha => ⟨?stamp, ?toggle, fun hb => ?press, fun hb => ?release⟩, by simp,
    by simp, by simp, by simp [edgeEffect_flags], fun f hset => by simp [edgeEffect_flags, hset], by simp⟩
  case stamp => rw [edgeEffect_debounceTs, if_pos ha]
  case toggle => rw [edgeEffect_btn, if_pos ha]
  case press =>
    obtain ⟨hpressed, -, -⟩ := edgeRaises_press ha hb
    exact ⟨by simp [edgeEffect_flags, hpressed], by simp [edgeEffect_lastClick, hb],
      fun f hf => by simp [edgeEffect_flags, edgeRaises_press_of_ne ha hb hf]⟩
  case release =>
    obtain ⟨hpressed, hclicked, -⟩ := edgeRaises_release ha hb
    exact ⟨by simp [edgeEffect_flags, hclicked], by simp [edgeEffect_lastClick, ha, hb],
      by simp [edgeEffect_flags, hpressed]⟩

/-! ## A BEDGE at a given time -/

/-- The state after a BEDGE at time `t` (R131). -/
def edgeAt (s : State.At w) (t : BitVec w) : State.At w := edgeEffect { s with now := t }

/-- Executing a BEDGE at a given time. -/
theorem exec_bedge_at (s : State) (t : Timestamp) : exec .bedge { s with now := t } = .next (edgeAt s t) := exec_eq _ _

/-- A run of BEDGEs applies one after another, each at its own time. -/
theorem runEdges_eq (ts : List Timestamp) (s : State) : runEdges ts s = .next (ts.foldl edgeAt s) := by
  induction ts generalizing s with
  | nil => rfl
  | cons t ts ih => rw [runEdges, exec_bedge_at, andThen_next, ih, List.foldl_cons]

section
variable {s : State.At w} {t : BitVec w} (hon : s.hasButton = true)
include hon

/-- With the button enabled, the elapsed time alone decides the acceptance (R132). -/
theorem edgeAccepted_at_iff : edgeAccepted { s with now := t } = true ↔ 10000 ≤ (t - s.debounceTs).toNat :=
  (edgeAccepted_iff _).trans (and_iff_right hon)

/-- A BEDGE inside the debounce window changes nothing (R132, R135). -/
theorem edgeAt_of_early (hearly : (t - s.debounceTs).toNat < 10000) : edgeAt s t = { s with now := t } :=
  edgeEffect_of_not_accepted fun ha => absurd ((edgeAccepted_at_iff hon).1 ha) hearly.not_ge

variable (hlate : 10000 ≤ (t - s.debounceTs).toNat)
include hlate

/-- A later one inverts BTN and stamps DEBOUNCE_TS, and LAST_CLICK when it is a release (R133, R134). -/
theorem edgeAt_of_late :
    (edgeAt s t).hasButton = true ∧ (edgeAt s t).btn = otherButton s.btn ∧ (edgeAt s t).debounceTs = t ∧
      (edgeAt s t).lastClick = if s.btn = .pressed then t else s.lastClick := by
  have ha := (edgeAccepted_at_iff hon).2 hlate
  rw [edgeAt, edgeEffect_hasButton, edgeEffect_btn, edgeEffect_debounceTs, edgeEffect_lastClick, if_pos ha, if_pos ha]
  exact ⟨hon, rfl, rfl, by simp only [ha, true_and]⟩

/-- The press (R134). -/
theorem edgeAt_press (hb : s.btn = .released) :
    (edgeAt s t).hasButton = true ∧ (edgeAt s t).btn = .pressed ∧ (edgeAt s t).debounceTs = t ∧
      (edgeAt s t).lastClick = s.lastClick := by
  simpa [hb, otherButton] using edgeAt_of_late hon hlate

/-- The release (R133). -/
theorem edgeAt_release (hb : s.btn = .pressed) :
    (edgeAt s t).hasButton = true ∧ (edgeAt s t).btn = .released ∧ (edgeAt s t).debounceTs = t ∧
      (edgeAt s t).lastClick = t := by
  simpa [hb, otherButton] using edgeAt_of_late hon hlate

/-- The click flags after the release: Clicked is set, and DoubleClicked rises by the gap alone (R133). -/
theorem edgeAt_release_flags (hb : s.btn = .pressed) :
    readFlag .clicked (edgeAt s t).flags = true ∧
      readFlag .doubleClicked (edgeAt s t).flags =
        (readFlag .doubleClicked s.flags || decide ((t - s.lastClick).toNat ≤ 500000)) := by
  obtain ⟨-, hclicked, hdouble⟩ := edgeRaises_release ((edgeAccepted_at_iff hon).2 hlate) hb
  rw [edgeAt, edgeEffect_flags, edgeEffect_flags, hclicked, hdouble]
  exact ⟨Bool.or_true _, rfl⟩

end

/-- Settles O32: the difference of times is the time added, on whichever side of the window it lies. -/
theorem windowBoundariesAreExact : Obligations.WindowBoundariesAreExact := by
  intro s t0 hon
  have helapsed (d : Timestamp) : (t0 + d - t0).toNat = d.toNat := by rw [add_sub_cancel_left]
  refine ⟨?discarded, ⟨_, exec_bedge_at { s with debounceTs := t0 } _, ?accepted⟩,
    fun hb hlate => ⟨_, exec_bedge_at { s with lastClick := t0 } _, ?inside⟩,
    fun hb hlate => ⟨_, exec_bedge_at { s with lastClick := t0 } _, ?outside⟩⟩
  case discarded =>
    exact (exec_bedge_at { s with debounceTs := t0 } _).trans
      (congrArg _ (edgeAt_of_early hon ((helapsed _).trans_lt (by decide))))
  case accepted =>
    obtain ⟨-, hbtn, -⟩ := edgeAt_of_late (s := { s with debounceTs := t0 }) hon
      ((by decide : 10000 ≤ (10000#32).toNat).trans_eq (helapsed _).symm)
    exact hbtn
  case inside =>
    obtain ⟨hclicked, hdouble⟩ := edgeAt_release_flags (s := { s with lastClick := t0 }) hon hlate hb
    rw [helapsed] at hdouble
    exact ⟨hclicked, hdouble.trans (Bool.or_true _)⟩
  case outside =>
    obtain ⟨hclicked, hdouble⟩ := edgeAt_release_flags (s := { s with lastClick := t0 }) hon hlate hb
    rw [helapsed] at hdouble
    exact ⟨hclicked, hdouble.trans (Bool.or_false _)⟩

/-- Settles O35: the first edge stamps its own time, from which the second is debounced. -/
theorem secondRapidEdgeIsDiscarded : Obligations.SecondRapidEdgeIsDiscarded := by
  intro s t1 t2 hon hlate hrapid
  obtain ⟨hon1, hbtn, hstamp, -⟩ := edgeAt_of_late hon hlate
  have hsecond : edgeAt (edgeAt s t1) t2 = { edgeAt s t1 with now := t2 } :=
    edgeAt_of_early hon1 (by rwa [hstamp])
  exact ⟨_, runEdges_eq [t1] s, hbtn, (runEdges_eq [t1, t2] s).trans (congrArg _ hsecond)⟩

/-- Settles O36: the first release stamps LAST_CLICK, the second press keeps it, and the second release takes its gap
against it. -/
theorem doubleClickNeedsGapInWindow : Obligations.DoubleClickNeedsGapInWindow := by
  intro s p1 r1 p2 r2 hon hb hp1 hr1 hp2 hr2
  obtain ⟨hon1, hb1, hstamp1, -⟩ := edgeAt_press hon hp1 hb
  obtain ⟨hon2, hb2, hstamp2, hclick2⟩ := edgeAt_release hon1 (by rwa [hstamp1]) hb1 (t := r1)
  obtain ⟨hon3, hb3, hstamp3, hclick3⟩ := edgeAt_press hon2 (by rwa [hstamp2]) hb2 (t := p2)
  obtain ⟨hclicked, hdouble⟩ := edgeAt_release_flags hon3 (by rwa [hstamp3]) hb3 (t := r2)
  rw [hclick3, hclick2] at hdouble
  refine ⟨_, _, runEdges_eq [p1, r1, p2] s, runEdges_eq [p1, r1, p2, r2] s, hclicked, fun hin => ?_, fun hout => ?_⟩
  · exact hdouble.trans (by rw [decide_eq_true hin, Bool.or_true])
  · exact hdouble.trans (by rw [decide_eq_false hout.not_ge, Bool.or_false]; rfl)

/-! ## The button front end -/

/-- The BEDGE a cycle without RST makes of the pin (R130, R231). -/
theorem nextEdge_of_pins {s : State} (hr : (nextInput s).rst = false) (he : (nextInput s).events = none) :
    nextEdge s =
      if s.hasButton = true ∧ s.capture = false ∧ (nextInput s).btnIn ≠ s.btnPrev then some .bedge else none := by
  simp [nextEdge_of_no_rst hr, nextWords, edgeOf_frontEnd _ _ he, takeInput_keeps, and_left_comm]

/-- Settles O55: the front end's BEDGE, case by case; an accepted one alone writes the button's registers. -/
theorem buttonFrontEndDetectsEdges : Obligations.ButtonFrontEndDetectsEdges := by
  intro s c cs hstim hrst hevents
  obtain ⟨rfl, -⟩ := nextInput_of_cons hstim
  have hstep := step_eq s
  have hpins := nextEdge_of_pins hrst hevents
  obtain ⟨-, -, hwriters⟩ := acceptedEdgesAloneWriteButtonRegisters
  obtain ⟨haccepted, hkept, -, hclick⟩ := hwriters s _ hstep hrst
  refine ⟨_, hstep, fun _ => by rw [step_next_of_no_rst hstep hrst, latchLevels_btnPrev], fun hquiet => ?quiet,
    fun hon hcap hchange => ?change⟩
  case quiet =>
    have hnone : nextEdge s = none := by
      obtain hoff | hcap | hsame := hquiet
      · simp [hpins, hoff]
      · simp [hpins, hcap]
      · simp [hpins, hsame]
    obtain ⟨hbtn, hts⟩ := hkept (by simp [hnone])
    exact ⟨hnone, hbtn, hts, hclick (by simp [hnone])⟩
  case change =>
    rw [if_pos ⟨hon, hcap, hchange⟩] at hpins
    exact ⟨hpins, fun hlate => haccepted ⟨hpins, hon, hlate⟩⟩

end Sys2Proof.Machine
end

section
/-! PROOFS. The eight host commands, alone and with an event in the same cycle: the command runs first, and the event finds
the state it leaves (R53, R55, R160 to R167). -/

namespace Sys2Proof.Machine

variable {w : Nat}

/-! ## A command and one event in one cycle -/

/-- The state in which a presented cycle takes its host command, at time `now` (R53). -/
def presentedStart (s : State) (now : Timestamp) : State := { s with capture := false, now := now, response := none }

section
variable {word : CommandWord} {i : Instr} (hd : decodeCommand word = .ok i) (s : State) (now : Timestamp)
include hd

/-- A command with a QSAMPLE: the command first (R53). -/
theorem step_command_sample (sym : BitVec 2) :
    step (presenting s (some word) [sym.setWidth 8] now) =
      .next (latchLevels (quietInput s (some word) [sym.setWidth 8])
        (sampleEffect sym (effect i (presentedStart s now)))) := by
  simp only [step_presenting, commandEffect, quietInput, hd, sampleOf, edgeOf, List.findSome?_cons, asSample_sampleWord,
    asEdge_sampleWord]
  rfl

/-- A command with a BEDGE: the command first (R53). -/
theorem step_command_edge :
    step (presenting s (some word) [0x40#8] now) =
      .next (latchLevels (quietInput s (some word) [0x40#8]) (edgeEffect (effect i (presentedStart s now)))) := by
  simp only [step_presenting, commandEffect, quietInput, hd, sampleOf, edgeOf, List.findSome?_cons, asSample_edgeWord,
    asEdge_edgeWord]
  rfl

end

/-- A history that the symbol completes to the clockwise pattern (R103). -/
theorem matchTurn_shiftHist_cw {h : BitVec 8} {sym : BitVec 2} (hpat : h <<< 2 ||| sym.setWidth 8 = 0x4B#8) :
    matchTurn (shiftHist h sym) = some .cw := by
  rw [shiftHist, hpat]
  rfl

/-- A history that the symbol completes to the counter-clockwise pattern (R103). -/
theorem matchTurn_shiftHist_ccw {h : BitVec 8} {sym : BitVec 2} (hpat : h <<< 2 ||| sym.setWidth 8 = 0x87#8) :
    matchTurn (shiftHist h sym) = some .ccw := by
  rw [shiftHist, hpat]
  rfl

/-! ## The flag reads -/

/-- `zext_16` of a flag as a case distinction (R74). -/
theorem boolData_eq_ite (b : Bool) : boolData b = if b then 1 else 0 := by
  cases b
  · exact boolData_false
  · exact boolData_true

/-- A flag read as one update of the state: it writes the response and, with clear, the flags (R163 to R166). -/
theorem readFlagCommand_eq (f : Flag) (clr : Bool) (s : State.At w) :
    readFlagCommand f clr s = { s with
      flags := if clr then clearFlag f s.flags else s.flags
      response := some ⟨false, if readFlag f s.flags then 1 else 0⟩ } := by
  rw [← boolData_eq_ite]
  cases clr <;> rfl

/-- A lowered flag is answered as 0 (R163 to R166). -/
theorem readFlagCommand_response_of_lowered {f : Flag} {s : State.At w} (hf : readFlag f s.flags = false) (clr : Bool) :
    (readFlagCommand f clr s).response = some ⟨false, 0⟩ := by
  rw [readFlagCommand_response, hf, boolData_false]

/-- A flag read moves nothing that decides which flags a BEDGE raises (R132, R166). -/
theorem edgeRaises_readFlagCommand (f g : Flag) (clr : Bool) (s : State.At w) :
    edgeRaises (readFlagCommand f clr s) g = edgeRaises s g := by
  cases clr <;> rfl

/-- The flag a BEDGE raises is raised after it, whatever a read before it cleared (R55). -/
theorem readFlag_edge_after_read {f : Flag} {s : State.At w} (hf : edgeRaises s f = true) (clr : Bool) :
    readFlag f (edgeEffect (readFlagCommand f clr s)).flags = true := by
  rw [edgeEffect_flags, edgeRaises_readFlagCommand, hf, Bool.or_true]

/-- A clearing flag read in the cycle of a BEDGE that raises the flag: the old bit is answered, and the flag is 1 after the
cycle (R55). -/
theorem step_flagRead_edge {word : CommandWord} {i : Instr} {f : Flag} {s : State} {now : Timestamp}
    (hd : decodeCommand word = .ok i) (hi : ∀ u : State, effect i u = readFlagCommand f true u)
    (hf : edgeRaises { s with now := now } f = true) :
    ∃ t, step (presenting s (some word) [0x40#8] now) = .next t ∧
      t.response = some ⟨false, if readFlag f s.flags then 1 else 0⟩ ∧ readFlag f t.flags = true := by
  refine ⟨_, step_command_edge hd s now, ?_⟩
  rw [hi, latchLevels_response, edgeEffect_response, readFlagCommand_response, boolData_eq_ite, latchLevels_flags]
  exact ⟨rfl, readFlag_edge_after_read (s := presentedStart s now) hf true⟩

/-! ## The statements -/

/-- Settles O12: GET_COUNT's effect is its response. -/
theorem getCountReturnsPosition : Obligations.GetCountReturnsPosition :=
  ⟨decode_encode .getCount, fun s => exec_eq .getCount s⟩

/-- The word of SET_COUNT decodes to it, with its operand (R72, R161). -/
theorem decodeCommand_setCount (v : Half) :
    decodeCommand (0x10000000#32 ||| v.setWidth 32) = .ok (.setCount v) := by
  rw [decodeCommand_eq_ok_iff, encode, commandWord_setCount]

/-- Settles O13: the match counts from the position SET_COUNT wrote. -/
theorem setCountOverwritesPosition : Obligations.SetCountOverwritesPosition := by
  refine ⟨decodeCommand_setCount, fun v s => exec_eq (.setCount v) s, fun v s sym now hpat => ?sameCycle⟩
  case sameCycle =>
    refine ⟨_, step_command_sample (decodeCommand_setCount v) s now sym, ?_⟩
    have hcount := sampleEffect_of_some (s := effect (.setCount v) (presentedStart s now)) (matchTurn_shiftHist_cw hpat)
    rw [latchLevels_position, hcount]
    rfl

/-- A clearing GET_DIFF in the cycle of a match: the old DELTA is answered, and DELTA is that indent alone (R162). -/
theorem step_getDiff_sample {s : State} {sym : BitVec 2} {d : Turn} (now : Timestamp)
    (hmatch : matchTurn (shiftHist s.hist sym) = some d) :
    ∃ t, step (presenting s (some 0x20000000#32) [sym.setWidth 8] now) = .next t ∧
      t.response = some ⟨false, s.delta⟩ ∧ t.delta = countTurn d 0 := by
  have hd : decodeCommand 0x20000000#32 = .ok (.getDiff true) := decode_encode (.getDiff true)
  refine ⟨_, step_command_sample hd s now sym, ?_⟩
  have hcount := sampleEffect_of_some (s := effect (.getDiff true) (presentedStart s now)) hmatch
  rw [latchLevels_response, latchLevels_delta, hcount]
  exact ⟨rfl, rfl⟩

/-- Settles O14: GET_DIFF's effect alone, and the match of either direction on the DELTA it cleared. -/
theorem getDiffReturnsAndClears : Obligations.GetDiffReturnsAndClears := by
  refine ⟨decode_encode (.getDiff true), decode_encode (.getDiff false), fun s => exec_eq (.getDiff true) s,
    fun s => exec_eq (.getDiff false) s, fun s sym now => ⟨fun hcw => ?_, fun hccw => ?_⟩⟩
  · exact step_getDiff_sample now (matchTurn_shiftHist_cw hcw)
  · exact step_getDiff_sample now (matchTurn_shiftHist_ccw hccw)

/-- Settles O15: the read clears Moved, and a match of either direction raises it again. -/
theorem isMovedReturnsAndClears : Obligations.IsMovedReturnsAndClears := by
  have hd : decodeCommand 0x30000000#32 = .ok (.isMoved true) := decode_encode (.isMoved true)
  refine ⟨hd, decode_encode (.isMoved false),
    fun s => (exec_eq _ s).trans (congrArg _ (readFlagCommand_eq .moved true s)),
    fun s => (exec_eq _ s).trans (congrArg _ (readFlagCommand_eq .moved false s)), fun s sym now hpat => ?sameCycle⟩
  case sameCycle =>
    refine ⟨_, step_command_sample hd s now sym, ?response, ?raised⟩
    case response =>
      rw [latchLevels_response, sampleEffect_response, effect, readFlagCommand_response, boolData_eq_ite]
      rfl
    case raised =>
      have hmatch : (matchTurn (shiftHist s.hist sym)).isSome = true := matchTurn_isSome_iff.2 hpat
      have hmoved := sampleEffect_flags sym (effect (.isMoved true) (presentedStart s now)) .moved
      exact hmoved.trans (by simp [effect, presentedStart, hmatch])

/-- Settles O16: the read clears Pressed, an accepted press raises it again, and a disabled button never raises it. -/
theorem isPressedReturnsAndClears : Obligations.IsPressedReturnsAndClears := by
  have hd : decodeCommand 0x40000000#32 = .ok (.isPressed true) := decode_encode (.isPressed true)
  refine ⟨hd, decode_encode (.isPressed false),
    fun s => (exec_eq _ s).trans (congrArg _ (readFlagCommand_eq .pressed true s)),
    fun s => (exec_eq _ s).trans (congrArg _ (readFlagCommand_eq .pressed false s)),
    fun s now hon hlate hb => ?sameCycle, fun s clr hinv hoff => ?disabled⟩
  case sameCycle =>
    obtain ⟨hpressed, -, -⟩ := edgeRaises_press (s := { s with now := now }) ((edgeAccepted_iff _).2 ⟨hon, hlate⟩) hb
    exact step_flagRead_edge hd (fun _ => rfl) hpressed
  case disabled =>
    obtain ⟨-, -, -, hlow, -, -⟩ := hinv.disabled_at_rest hoff
    exact ⟨_, exec_eq _ s, readFlagCommand_response_of_lowered hlow clr⟩

/-- Settles O17: the read clears Clicked, an accepted release raises it again, and a disabled button never raises it. -/
theorem isClickedReturnsAndClears : Obligations.IsClickedReturnsAndClears := by
  have hd : decodeCommand 0x50000000#32 = .ok (.isClicked true) := decode_encode (.isClicked true)
  refine ⟨hd, decode_encode (.isClicked false),
    fun s => (exec_eq _ s).trans (congrArg _ (readFlagCommand_eq .clicked true s)),
    fun s => (exec_eq _ s).trans (congrArg _ (readFlagCommand_eq .clicked false s)),
    fun s now hon hlate hb => ?sameCycle, fun s clr hinv hoff => ?disabled⟩
  case sameCycle =>
    obtain ⟨-, hclicked, -⟩ := edgeRaises_release (s := { s with now := now }) ((edgeAccepted_iff _).2 ⟨hon, hlate⟩) hb
    exact step_flagRead_edge hd (fun _ => rfl) hclicked
  case disabled =>
    obtain ⟨-, -, -, -, hlow, -⟩ := hinv.disabled_at_rest hoff
    exact ⟨_, exec_eq _ s, readFlagCommand_response_of_lowered hlow clr⟩

/-- Settles O18: the read clears DoubleClicked and keeps LAST_CLICK, so a release inside the window raises it again. -/
theorem isDoubleClickedReturnsAndClears : Obligations.IsDoubleClickedReturnsAndClears := by
  refine ⟨decode_encode (.isDoubleClicked true), decode_encode (.isDoubleClicked false),
    fun s => (exec_eq _ s).trans (congrArg _ (readFlagCommand_eq .doubleClicked true s)),
    fun s => (exec_eq _ s).trans (congrArg _ (readFlagCommand_eq .doubleClicked false s)),
    fun s hon hlate hb hgap => ?thirdRelease, fun s clr hinv hoff => ?disabled⟩
  case thirdRelease =>
    obtain ⟨-, -, hdouble⟩ := edgeRaises_release ((edgeAccepted_iff s).2 ⟨hon, hlate⟩) hb
    rw [(insideDoubleClick_iff _ _).2 hgap] at hdouble
    have hraised : readFlag .doubleClicked (effect .bedge (effect (.isDoubleClicked true) s)).flags = true :=
      readFlag_edge_after_read hdouble true
    exact ⟨_, by rw [runInstrs_cons, runInstrs_cons, runInstrs_nil], hraised⟩
  case disabled =>
    obtain ⟨-, -, -, -, -, hlow⟩ := hinv.disabled_at_rest hoff
    exact ⟨_, exec_eq _ s, readFlagCommand_response_of_lowered hlow clr⟩

/-- Settles O19: the events of the same cycle set their flags in the register CLEAR left empty. -/
theorem clearDropsAllFlags : Obligations.ClearDropsAllFlags := by
  have hd : decodeCommand 0x70000000#32 = .ok .clear := decode_encode .clear
  refine ⟨hd, fun s => exec_eq .clear s, fun s sym now hpat => ⟨_, step_command_sample hd s now sym, ?moved⟩,
    fun s now hon hlate => ⟨_, step_command_edge hd s now, ?button⟩⟩
  case moved =>
    have hcount := sampleEffect_of_some (s := effect .clear (presentedStart s now)) (matchTurn_shiftHist_cw hpat)
    rw [latchLevels_flags, hcount]
    exact BitVec.zero_or
  case button =>
    have ha : edgeAccepted (effect .clear (presentedStart s now)) = true := (edgeAccepted_iff _).2 ⟨hon, hlate⟩
    rw [latchLevels_flags]
    refine ⟨fun hb => ?press, fun hb => ?release⟩
    case press =>
      rw [edgeEffect_of_press ha hb]
      exact BitVec.zero_or
    case release =>
      obtain ⟨-, hclicked, -⟩ := edgeRaises_release ha hb
      exact (edgeEffect_flags _ .clicked).trans (by rw [hclicked, Bool.or_true])

end Sys2Proof.Machine
end

section
/-! PROOFS. Nothing faults, and what ERR reports (R200, R201). -/

namespace Sys2Proof

/-! ## The one reject of the command port -/

/-- An arm of the command decoder does not answer ILLEGAL_EVENT (R75). -/
theorem commandIf_ne_illegalEvent (ok : Bool) (i : Instr) : commandIf ok i ≠ .error .illegalEvent := by
  cases ok <;> simp [commandIf]

/-- Nor does the command port's decoder (R75). -/
theorem decodeCommand_ne_illegalEvent (word : CommandWord) : decodeCommand word ≠ .error .illegalEvent := by
  unfold decodeCommand
  split
  · simp
  · split
    case h_9 => simp
    all_goals exact commandIf_ne_illegalEvent _ _

/-- A command word is an instruction's or ILLEGAL (R75). -/
theorem decodeCommand_cases (word : CommandWord) :
    (∃ i, decodeCommand word = .ok i) ∨ decodeCommand word = .error .illegalCommand := by
  rcases h : decodeCommand word with r | i
  · cases r with
    | illegalCommand => exact .inr rfl
    | illegalEvent => exact absurd h (decodeCommand_ne_illegalEvent word)
  · exact .inl ⟨i, rfl⟩

end Sys2Proof

namespace Sys2Proof.Machine

variable {w : Nat}

/-! ## The response of a cycle -/

/-- Every host command answers with ERR = 0 (R74, R160 to R167). -/
theorem effect_response_of_not_event {i : Instr} (hb : i ≠ .bedge) (hq : ∀ sym, i ≠ .qsample sym) (s : State.At w) :
    ∃ data, (effect i s).response = some ⟨false, data⟩ := by
  cases i with
  | bedge => exact absurd rfl hb
  | qsample sym => exact absurd rfl (hq sym)
  | _ => exact ⟨_, rfl⟩

/-- The events of a cycle leave the response of its host command (R104, R135). -/
theorem step_response_of_no_rst {s t : State} (h : step s = .next t) (hr : (nextInput s).rst = false) :
    t.response = (afterCommand s).response := by
  obtain ⟨-, -, -, hedge, -⟩ := edgeEvent_keeps (nextWords s) (beforeEdge s)
  obtain ⟨-, -, -, -, -, hsample, -⟩ := sampleEvent_keeps (nextWords s) (afterCommand s)
  rw [step_next_of_no_rst h hr, latchLevels_response, nextEdge_of_no_rst hr, hedge, beforeEdge,
    nextSample_of_no_rst hr, hsample]

/-- A cycle without a command leaves the response port idle (R74). -/
theorem afterCommand_response_of_none {s : State} (hc : (nextInput s).command = none) :
    (afterCommand s).response = none := by
  simp [afterCommand, commandEffect, hc]

/-- A defined command leaves a response with ERR = 0 (R74). -/
theorem afterCommand_response_of_ok {s : State} {word : CommandWord} {i : Instr}
    (hc : (nextInput s).command = some word) (hd : decodeCommand word = .ok i) :
    ∃ data, (afterCommand s).response = some ⟨false, data⟩ := by
  obtain ⟨hb, hq⟩ := not_event_of_decodeCommand hd
  simp only [afterCommand, commandEffect, hc, hd]
  exact effect_response_of_not_event hb hq _

/-- An ILLEGAL word leaves the response `(1, 0x0000)` and otherwise the state the cycle began with (R76). -/
theorem afterCommand_of_illegal {s : State} {word : CommandWord} {r : Reject}
    (hc : (nextInput s).command = some word) (hd : decodeCommand word = .error r) :
    afterCommand s = { takeInput s with now := (nextInput s).now, response := some ⟨true, 0x0000#16⟩ } :=
  commandEffect_of_illegal hc hd _

/-- A cycle without RST and without events is its host command and the levels (R53). -/
theorem step_of_no_event {s t : State} (h : step s = .next t) (hr : (nextInput s).rst = false)
    (hsample : nextSample s = none) (hedge : nextEdge s = none) : t = latchLevels (nextInput s) (afterCommand s) := by
  rw [step_next_of_no_rst h hr, beforeEdge, hsample, hedge]
  rfl

/-! ## The statements -/

/-- Settles O50: the next state is the effect of the instruction, or of the cycle. -/
theorem everyTransactionCompletes : Obligations.EveryTransactionCompletes :=
  ⟨fun i s => ⟨effect i s, exec_eq i s⟩, fun s => ⟨cycleEffect (nextInput s) (takeInput s), step_eq s⟩⟩

/-- Settles O51: the events pass the command's response through, and that is ERR = 0 for a defined word and ERR = 1 for
an ILLEGAL one. -/
theorem errExactlyForIllegalCommands : Obligations.ErrExactlyForIllegalCommands := by
  intro s t hstep hr
  have hresponse := step_response_of_no_rst hstep hr
  refine ⟨fun hc r hresp => ?noCommand, fun word hc => ?command, fun word hc hd hsample hedge => ?illegalAlone⟩
  case noCommand =>
    rw [hresponse, afterCommand_response_of_none hc] at hresp
    cases hresp
  case command =>
    obtain ⟨i, hd⟩ | hd := decodeCommand_cases word
    · obtain ⟨data, hok⟩ := afterCommand_response_of_ok hc hd
      exact ⟨_, hresponse.trans hok, by simp [hd]⟩
    · rw [afterCommand_of_illegal hc hd] at hresponse
      exact ⟨_, hresponse, by simp [hd]⟩
  case illegalAlone =>
    rw [step_of_no_event hstep hr hsample hedge, afterCommand_of_illegal hc hd]
    rfl

end Sys2Proof.Machine
end

section
/-! PROOFS. Cycles in which the block takes no event: RST asserted, and the capture cycle after it (R230, R231). -/

namespace Sys2Proof.Machine

/-- A cycle with RST asserted leaves the reset values, whatever else is presented (R230). -/
theorem step_of_rst {s : State} (hr : (nextInput s).rst = true) :
    step s = .next (resetCycle (nextInput s) (takeInput s)) := by
  rw [step_eq, cycleEffect, if_pos hr]

/-- Nothing is presented at the event port of the capture cycle (R231). -/
theorem nextWords_of_capture {s : State} (hcap : s.capture = true) : nextWords s = [] := by
  simp [nextWords, presentedWords, takeInput_keeps, hcap]

/-- The capture cycle is its host command and the levels (R231). -/
theorem step_of_capture {s : State} (hcap : s.capture = true) (hr : (nextInput s).rst = false) :
    step s = .next (latchLevels (nextInput s) (afterCommand s)) := by
  have hwords := nextWords_of_capture hcap
  have hsample : nextSample s = none := by rw [nextSample_of_no_rst hr, hwords]; rfl
  have hedge : nextEdge s = none := by rw [nextEdge_of_no_rst hr, hwords]; rfl
  rw [step_eq s, step_of_no_event (step_eq s) hr hsample hedge]

/-- The events of a cycle with a defined command run in the state that command leaves (R53, R75). -/
theorem afterCommand_of_ok {s : State} {word : CommandWord} {i : Instr} (hc : (nextInput s).command = some word)
    (hd : decodeCommand word = .ok i) : afterCommand s = effect i (beginCycle (nextInput s) (takeInput s)) := by
  simp [afterCommand, commandEffect, hc, hd]

/-- Settles O10: the reset state under RST; the capture cycle is its host command alone, or no transaction at all. -/
theorem rstRestoresAndCaptureTakesNoEvent : Obligations.RstRestoresAndCaptureTakesNoEvent := by
  refine fun s => ⟨fun hr => ⟨_, step_of_rst hr, rfl, rfl, rfl, rfl, rfl, rfl, rfl, rfl, rfl⟩,
    fun hr hcap => ⟨fun hc => ⟨_, step_eq s, ?noCommand⟩, fun word i hc hd => ?command⟩⟩
  case noCommand =>
    have htaken : (takeInput s).capture = true := by simp [takeInput_keeps, hcap]
    rw [cycleEffect_of_capture htaken hr hc]
    simp [takeInput_keeps]
  case command =>
    rw [step_of_capture hcap hr, afterCommand_of_ok hc hd, exec_eq]
    rfl

end Sys2Proof.Machine
end

section
/-! PROOFS. Decoding inverts encoding at both ports, over all words and all instructions (R70 to R82). -/

namespace Sys2Proof

/-- Settles O5, port by port. -/
theorem decodingInvertsEncoding : Obligations.DecodingInvertsEncoding := by
  intro p i
  cases p with
  | host w => exact decodeCommand_eq_ok_iff
  | event e => exact decodeEvent_eq_ok_iff

/-- Settles O1: the eight words are the encoder's, and the two rejects are evaluated. -/
theorem decodeReadsWrittenWords : Obligations.DecodeReadsWrittenWords :=
  ⟨decode_encode .getCount, decode_encode (.setCount 0xFFFB#16), decode_encode (.getDiff false),
    decode_encode (.isMoved true), decode_encode (.isDoubleClicked true), decode_encode .clear,
    decode_encode (.qsample 0b10#2), decode_encode .bedge, by decide, by decide⟩

/-- Settles O6: the arms of the command decoder name no event. -/
theorem hostCannotPresentEvents : Obligations.HostCannotPresentEvents :=
  fun _ _ hd => Machine.not_event_of_decodeCommand hd

end Sys2Proof
end

section
/-! PROOFS. The host command of a cycle and the cycle's counters: who writes POSITION and DELTA, and the conservation of
DELTA (R20, R21, R56, R162). -/

namespace Sys2Proof.Machine

variable {w : Nat}

/-! ## What a host command writes -/

section
variable {i : Instr} (hb : i ≠ .bedge) (hq : ∀ sym, i ≠ .qsample sym) (s : State.At w)
include hb hq

/-- A host command other than SET_COUNT keeps POSITION (R169). -/
theorem effect_position_of_not_event (hset : ∀ v, i ≠ .setCount v) : (effect i s).position = s.position := by
  cases i with
  | bedge => exact absurd rfl hb
  | qsample sym => exact absurd rfl (hq sym)
  | setCount v => exact absurd rfl (hset v)
  | getDiff clr => cases clr <;> rfl
  | _ => simp [effect]

/-- A host command keeps DELTA, but for the GET_DIFF that clears it (R162, R169). -/
theorem effect_delta_of_not_event : (effect i s).delta = if i = .getDiff true then 0 else s.delta := by
  cases i with
  | bedge => exact absurd rfl hb
  | qsample sym => exact absurd rfl (hq sym)
  | getDiff clr => cases clr <;> rfl
  | _ => simp [effect]

/-- Which response a host command gives, and what it leaves in POSITION, DELTA and FLAGS, is decided by those three
(R39). -/
theorem effect_congr_of_not_event {a b : State.At w} (hpos : a.position = b.position) (hdelta : a.delta = b.delta)
    (hflags : a.flags = b.flags) :
    (effect i a).response = (effect i b).response ∧ (effect i a).position = (effect i b).position ∧
    (effect i a).delta = (effect i b).delta ∧ (effect i a).flags = (effect i b).flags := by
  cases i with
  | bedge => exact absurd rfl hb
  | qsample sym => exact absurd rfl (hq sym)
  | getDiff clr => cases clr <;> simp [effect, hpos, hdelta, hflags]
  | _ => simp [effect, readFlagCommand_eq, hpos, hdelta, hflags]

end

/-- Executing a decoded command is what a cycle does with its word. -/
theorem commandEffect_of_word {word : CommandWord} {i : Instr} (hd : decodeCommand word = .ok i) (s : State) :
    commandEffect (quietInput s (some word) []) s = effect i s := by
  simp only [commandEffect, quietInput, hd]

/-- Settles O20, by the frame of a cycle's host command and by who writes each counter and flag. -/
theorem hostCommandsTouchOnlyTheirItem : Obligations.HostCommandsTouchOnlyTheirItem := by
  intro word i s t hd ht
  obtain rfl := exec_next ht
  obtain ⟨hb, hq⟩ := not_event_of_decodeCommand hd
  obtain ⟨hhist, hbtn, hts, hclick, -, -⟩ := commandEffect_keeps (quietInput s (some word) []) s
  obtain ⟨hqa, hqb, hprev, hcap, hon, hnow, hstim, hdraws⟩ := effect_keeps i s
  rw [commandEffect_of_word hd] at hhist hbtn hts hclick
  refine ⟨hhist, hbtn, hts, hclick, hqa, hqb, hprev, hcap, hon, hnow, hstim, hdraws, fun hne => ?position,
    fun hne => ?delta, fun f hne => ?flag⟩
  case position =>
    by_contra hnone
    exact hne (effect_position_of_not_event hb hq s (not_exists.1 hnone))
  case delta =>
    by_contra hother
    exact hne (by rw [effect_delta_of_not_event hb hq, if_neg hother])
  case flag =>
    by_contra hkept
    exact hne (by rw [readFlag_effect_of_not_event hb hq, Bool.eq_false_iff.2 hkept, Bool.not_false, Bool.and_true])

/-- Settles O22: no host command reads a field of the hidden state. -/
theorem hiddenStateHasNoReader : Obligations.HiddenStateHasNoReader := by
  intro word i a b a' b' hd hpos hdelta hflags ha hb
  obtain ⟨hedge, hsample⟩ := not_event_of_decodeCommand hd
  rw [exec_next ha, exec_next hb]
  exact effect_congr_of_not_event hedge hsample hpos hdelta hflags

/-! ## The host command of the next cycle -/

section
variable {s : State} (hr : (nextInput s).rst = false)
include hr

/-- The events of a cycle run in the state its defined command leaves, or, without one, in the state the cycle began
with, which an ILLEGAL word leaves but for the response (R53, R76). -/
theorem afterCommand_cases :
    (∃ i, nextCommand s = some i ∧ i ≠ .bedge ∧ (∀ sym, i ≠ .qsample sym) ∧
      afterCommand s = effect i (beginCycle (nextInput s) (takeInput s))) ∨
    (nextCommand s = none ∧
      (afterCommand s = beginCycle (nextInput s) (takeInput s) ∨
        afterCommand s = respondIllegal (beginCycle (nextInput s) (takeInput s)))) := by
  simpa [nextCommand, hr, afterCommand] using commandEffect_cases (nextInput s) (beginCycle (nextInput s) (takeInput s))

/-- Without SET_COUNT the cycle's events find the POSITION it began with (R20). -/
theorem afterCommand_position (hset : ∀ v, nextCommand s ≠ some (.setCount v)) :
    (afterCommand s).position = s.position := by
  obtain ⟨i, hi, hb, hq, h⟩ | ⟨-, h | h⟩ := afterCommand_cases hr
  · rw [h, effect_position_of_not_event hb hq _ fun v hv => hset v (hi.trans (congrArg some hv))]
    simp [takeInput_keeps]
  · simp [h, takeInput_keeps]
  · simp [h, respondIllegal, takeInput_keeps]

/-- They find the DELTA it began with, or 0 after a clearing GET_DIFF (R21, R162). -/
theorem afterCommand_delta :
    (afterCommand s).delta = if nextCommand s = some (.getDiff true) then 0 else s.delta := by
  obtain ⟨i, hi, hb, hq, h⟩ | ⟨hi, h | h⟩ := afterCommand_cases hr
  · simp [h, hi, effect_delta_of_not_event hb hq, takeInput_keeps]
  · simp [h, hi, takeInput_keeps]
  · simp [h, hi, respondIllegal, takeInput_keeps]

/-- A clearing GET_DIFF answers with the DELTA the cycle began with (R162). -/
theorem afterCommand_response_of_getDiff (hd : nextCommand s = some (.getDiff true)) :
    (afterCommand s).response = some ⟨false, s.delta⟩ := by
  obtain ⟨i, hi, -, -, h⟩ | ⟨hi, -⟩ := afterCommand_cases hr
  · obtain rfl := Option.some.inj (hi.symm.trans hd)
    simp [h, effect, takeInput_keeps]
  · cases hi.symm.trans hd

end

/-! ## The counters over a cycle -/

/-- Counting an indent adds the same amount to every value (R103). -/
theorem countTurn_eq_add (d : Turn) (v : Half) : countTurn d v = v + countTurn d 0 := by
  cases d with
  | cw => simp [countTurn]
  | ccw => simp [countTurn, sub_eq_add_neg]

/-- A cycle without RST either matches no pattern and leaves the counters its host command leaves, or takes a QSAMPLE
that matches, and both counters move by one indent in its direction (R103 to R105, R135). -/
theorem step_counters_cases {s t : State} (h : step s = .next t) (hr : (nextInput s).rst = false) :
    ((nextSample s = none ∨ matchTurn t.hist = none) ∧
      t.position = (afterCommand s).position ∧ t.delta = (afterCommand s).delta) ∨
    ∃ sym d, nextSample s = some (.qsample sym) ∧ matchTurn t.hist = some d ∧
      t.position = countTurn d (afterCommand s).position ∧ t.delta = countTurn d (afterCommand s).delta := by
  obtain ⟨hpos, hdelta, -⟩ := edgeEvent_keeps (nextWords s) (beforeEdge s)
  have ht := step_next_of_no_rst h hr
  rw [nextEdge_of_no_rst hr] at ht
  have hposition : t.position = (beforeEdge s).position := by rw [ht, latchLevels_position, hpos]
  have hdeltas : t.delta = (beforeEdge s).delta := by rw [ht, latchLevels_delta, hdelta]
  rw [hposition, hdeltas, beforeEdge]
  cases hs : nextSample s with
  | none => exact .inl ⟨.inl rfl, rfl, rfl⟩
  | some i =>
    obtain ⟨sym, rfl⟩ := sampleOf_eq_some (nextSample_of_no_rst hr ▸ hs)
    rw [step_hist_of_sample h hr hs, eventEffect, effect, ← afterCommand_hist s]
    cases hm : matchTurn (shiftHist (afterCommand s).hist sym) with
    | none => exact .inl ⟨.inr rfl, by rw [sampleEffect_of_none hm], by rw [sampleEffect_of_none hm]⟩
    | some d => exact .inr ⟨sym, d, rfl, rfl, by rw [sampleEffect_of_some hm], by rw [sampleEffect_of_some hm]⟩

/-- Settles O57: a counter that changed has been written by the host command or by the match. -/
theorem rotationRegistersHaveTheirWriters : Obligations.RotationRegistersHaveTheirWriters := by
  intro s t hstep hr
  have hcounters := step_counters_cases hstep hr
  refine ⟨fun hne => ?hist, fun hne => ?position, fun hne => ?delta⟩
  case hist =>
    cases hs : nextSample s with
    | none => exact absurd (step_hist_of_no_sample hstep hr hs) hne
    | some i =>
      obtain ⟨sym, rfl⟩ := sampleOf_eq_some (nextSample_of_no_rst hr ▸ hs)
      exact ⟨sym, rfl⟩
  case position =>
    obtain ⟨-, hpos, -⟩ | ⟨sym, d, hs, hm, -⟩ := hcounters
    · left
      by_contra hnone
      exact hne (hpos.trans (afterCommand_position hr (not_exists.1 hnone)))
    · exact .inr ⟨sym, hs, matchTurn_isSome_iff.1 (Option.isSome_of_eq_some hm)⟩
  case delta =>
    obtain ⟨-, -, hdelta⟩ | ⟨sym, d, hs, hm, -⟩ := hcounters
    · left
      by_contra hother
      exact hne (by rw [hdelta, afterCommand_delta hr, if_neg hother])
    · exact .inr ⟨sym, hs, matchTurn_isSome_iff.1 (Option.isSome_of_eq_some hm)⟩

/-- Settles O29: an indent moves both counters by the same amount. -/
theorem deltaMinusPositionChangesOnlyByHost : Obligations.DeltaMinusPositionChangesOnlyByHost := by
  intro s t hstep hr hset hdiff
  have hkept : (afterCommand s).delta - (afterCommand s).position = s.delta - s.position := by
    rw [afterCommand_position hr hset, afterCommand_delta hr, if_neg hdiff]
  obtain ⟨-, hpos, hdelta⟩ | ⟨-, d, -, -, hpos, hdelta⟩ := step_counters_cases hstep hr
  · rw [hpos, hdelta, hkept]
  · rw [hpos, hdelta, countTurn_eq_add, countTurn_eq_add d (afterCommand s).position, add_sub_add_right_eq_sub, hkept]

/-! ## Conservation of DELTA (R56) -/

/-- A reset state balances the empty ledger. -/
theorem start_balanced {s : State} (h : s.delta = 0) : Ledger.start.Balanced s := by
  unfold Ledger.Balanced
  rw [h]
  rfl

/-- What clearing GET_DIFFs returned, with the DELTA left for the cycle's events, is what it was with the DELTA the cycle
began with: a clearing read moves DELTA into the sum. -/
theorem account_returned_add_delta {s t : State} (l : Ledger) (h : step s = .next t) (hr : (nextInput s).rst = false) :
    (l.account s t).returned + (afterCommand s).delta = l.returned + s.delta := by
  rw [afterCommand_delta hr]
  by_cases hd : nextCommand s = some (.getDiff true)
  · have hresp := (step_response_of_no_rst h hr).trans (afterCommand_response_of_getDiff hr hd)
    simp [Ledger.account, hr, hd, hresp]
  · simp [Ledger.account, hr, hd]

/-- A cycle without a match counts none. -/
theorem account_counts_of_no_match {s t : State} (l : Ledger) (hr : (nextInput s).rst = false)
    (h : nextSample s = none ∨ matchTurn t.hist = none) :
    (l.account s t).cw = l.cw ∧ (l.account s t).ccw = l.ccw := by
  obtain hs | hm := h
  · simp [Ledger.account, hr, hs]
  · obtain ⟨-, hsome⟩ | ⟨-, hsome⟩ | ⟨hcw, hccw, -⟩ := matchTurn_cases t.hist
    · simp [hm] at hsome
    · simp [hm] at hsome
    · simp [Ledger.account, hr, Config.patCw, Config.patCcw, hcw, hccw]

/-- A match is counted once, in its direction. -/
theorem account_counts_of_match {s t : State} {i : Instr} {d : Turn} (l : Ledger) (hr : (nextInput s).rst = false)
    (hs : nextSample s = some i) (hm : matchTurn t.hist = some d) :
    BitVec.ofNat 16 (l.account s t).cw - BitVec.ofNat 16 (l.account s t).ccw =
      countTurn d (BitVec.ofNat 16 l.cw - BitVec.ofNat 16 l.ccw) := by
  obtain ⟨hhist, hsome⟩ | ⟨hhist, hsome⟩ | ⟨-, -, hnone⟩ := matchTurn_cases t.hist
  · obtain rfl := Option.some.inj (hm.symm.trans hsome)
    simp [Ledger.account, hr, hs, hhist, Config.patCw, Config.patCcw, countTurn, BitVec.ofNat_add, sub_add_eq_add_sub]
  · obtain rfl := Option.some.inj (hm.symm.trans hsome)
    simp [Ledger.account, hr, hs, hhist, Config.patCw, Config.patCcw, countTurn, BitVec.ofNat_add, sub_add_eq_sub_sub]
  · cases hnone.symm.trans hm

/-- Settles O44: the host command moves DELTA into the sum, and a match moves both sides by one. -/
theorem deltaConservedByEveryStep : Obligations.DeltaConservedByEveryStep := by
  intro s t l hstep hbal
  cases hr : (nextInput s).rst with
  | true =>
    obtain rfl := Host.Outcome.next.inj (hstep.symm.trans (step_of_rst hr))
    rw [Ledger.account, if_pos hr]
    exact start_balanced rfl
  | false =>
    have hsum := (account_returned_add_delta l hstep hr).trans hbal
    unfold Ledger.Balanced
    obtain ⟨hnone, -, hdelta⟩ | ⟨sym, d, hs, hm, -, hdelta⟩ := step_counters_cases hstep hr
    · obtain ⟨hcw, hccw⟩ := account_counts_of_no_match l hr hnone
      rw [hdelta, hcw, hccw, hsum]
    · rw [hdelta, account_counts_of_match l hr hs hm, countTurn_eq_add, ← add_assoc, hsum, ← countTurn_eq_add]

/-- Settles O45: the reset state balances, and every step of a run keeps the balance. -/
theorem deltaConservedOverRuns : Obligations.DeltaConservedOverRuns := by
  refine ⟨fun cs => start_balanced rfl, fun k => ?_⟩
  induction k with
  | zero => exact fun s l hbal => ⟨s, l, rfl, hbal⟩
  | succ k ih =>
    intro s l hbal
    have hstep := step_eq s
    obtain ⟨t, l', hrun, hbal'⟩ := ih _ _ (deltaConservedByEveryStep s _ l hstep hbal)
    exact ⟨t, l', by rw [runLedger, hstep, ← hrun], hbal'⟩

end Sys2Proof.Machine
end

section
/-! PROOFS. The history of symbols: four QSAMPLEs fill it, which lists of them match, and full turns (R103, R108, R111,
R113). -/

namespace Sys2Proof.Machine

variable {w : Nat}

/-- Appending a symbol, as arithmetic on naturals (R102). -/
theorem append_symbol_toNat {n : Nat} (x : BitVec n) (sym : BitVec 2) : (x ++ sym).toNat = x.toNat * 4 + sym.toNat := by
  rw [BitVec.toNat_append, ← Nat.shiftLeft_add_eq_or_of_lt sym.isLt, Nat.shiftLeft_eq]

/-- Four symbols fill the history, whatever stood there before (R113). -/
theorem shiftHist_four (h : BitVec 8) (a b c d : BitVec 2) :
    shiftHist (shiftHist (shiftHist (shiftHist h a) b) c) d = a ++ b ++ c ++ d := by
  apply BitVec.eq_of_toNat_eq
  simp only [shiftHist_toNat, append_symbol_toNat]
  omega

/-- A QSAMPLE moves the counters by an amount that depends on HIST and the symbol alone (R103, R113). -/
theorem sampleEffect_moves_alike {a b : State.At w} (h : a.hist = b.hist) (sym : BitVec 2) :
    (sampleEffect sym a).position - a.position = (sampleEffect sym b).position - b.position ∧
    (sampleEffect sym a).delta - a.delta = (sampleEffect sym b).delta - b.delta := by
  cases hm : matchTurn (shiftHist b.hist sym) with
  | none => simp [sampleEffect_position, sampleEffect_delta, h, hm]
  | some d => simp [sampleEffect_position, sampleEffect_delta, h, hm, countTurn_eq_add d a.position,
      countTurn_eq_add d a.delta, countTurn_eq_add d b.position, countTurn_eq_add d b.delta]

/-- Settles O27: four symbols fill both histories, from which the fifth moves the counters alike. -/
theorem newestFourSymbolsDecide : Obligations.NewestFourSymbolsDecide := by
  intro s u a b c d e
  have hfull (v : State) : (sampleEffect d (sampleEffect c (sampleEffect b (sampleEffect a v)))).hist =
      a ++ b ++ c ++ d := by
    simp only [sampleEffect_hist, shiftHist_four]
  have hrun (v : State) : runInstrs [.qsample a, .qsample b, .qsample c, .qsample d] v =
      .next (sampleEffect d (sampleEffect c (sampleEffect b (sampleEffect a v)))) := by
    simp only [runInstrs_cons, runInstrs_nil, effect]
  exact ⟨_, _, _, _, hrun s, hrun u, hfull s, (hfull u).trans (hfull s).symm, exec_eq _ _, exec_eq _ _,
    sampleEffect_moves_alike ((hfull s).trans (hfull u).symm) e⟩

/-- No three symbols after a pattern complete one again: after one symbol and after three the oldest symbol is 00 or 11,
where both patterns have 01 or 10, and after two the second is 11, where both have 00 (R111). -/
theorem matchTurn_none_after_match {h : BitVec 8} (hh : h = 0x4B#8 ∨ h = 0x87#8) (a b c : BitVec 2) :
    matchTurn (shiftHist h a) = none ∧ matchTurn (shiftHist (shiftHist h a) b) = none ∧
      matchTurn (shiftHist (shiftHist (shiftHist h a) b) c) = none := by
  obtain rfl | rfl := hh <;> revert a b c <;> decide

/-- A QSAMPLE that matches no pattern leaves only the history it shifted (R105). -/
theorem sampleEffect_putHist_of_none {h : BitVec 8} {sym : BitVec 2} (hm : matchTurn (shiftHist h sym) = none)
    (s : State.At w) : sampleEffect sym (putHist h s) = putHist (shiftHist h sym) s :=
  sampleEffect_of_none (s := putHist h s) hm

/-- So do three of them, in front of other transactions. -/
theorem runInstrs_three_of_none {a b c : BitVec 2} {s : State} (ha : matchTurn (shiftHist s.hist a) = none)
    (hb : matchTurn (shiftHist (shiftHist s.hist a) b) = none)
    (hc : matchTurn (shiftHist (shiftHist (shiftHist s.hist a) b) c) = none) (is : List Instr) :
    runInstrs (.qsample a :: .qsample b :: .qsample c :: is) s =
      runInstrs is (putHist (shiftHist (shiftHist (shiftHist s.hist a) b) c) s) := by
  have hfirst : sampleEffect a s = putHist (shiftHist s.hist a) s := sampleEffect_of_none ha
  simp only [runInstrs_cons, effect, hfirst, sampleEffect_putHist_of_none hb, sampleEffect_putHist_of_none hc]

/-- Settles O26: none of the three QSAMPLEs matches. -/
theorem matchesAreFourSamplesApart : Obligations.MatchesAreFourSamplesApart := by
  intro s a b c hh
  obtain ⟨ha, hb, hc⟩ := matchTurn_none_after_match hh a b c
  exact ⟨_, runInstrs_three_of_none ha hb hc [], rfl, rfl, rfl⟩

/-- Both patterns end with 11, so no other symbol completes one (R108). -/
theorem matchTurn_none_of_symbol {sym : BitVec 2} (hsym : sym ≠ 0b11#2) (h : BitVec 8) :
    matchTurn (shiftHist h sym) = none := by
  have hlow : sym.toNat ≠ 3 := fun heq => hsym (BitVec.eq_of_toNat_eq heq)
  have hlt := sym.isLt
  apply matchTurn_none_of_toNat <;> rw [shiftHist_toNat] <;> omega

/-- From every state, four symbols that spell a pattern count one indent, at the last of them (R108). -/
theorem runInstrs_turn {a b c : BitVec 2} (ha : a ≠ 0b11#2) (hb : b ≠ 0b11#2) (hc : c ≠ 0b11#2) {d : Turn}
    (hm : matchTurn (a ++ b ++ c ++ 0b11#2) = some d) (s : State) :
    runInstrs [.qsample a, .qsample b, .qsample c, .qsample 0b11#2] s = .next { s with
      hist := a ++ b ++ c ++ 0b11#2, position := countTurn d s.position, delta := countTurn d s.delta,
      flags := setFlag .moved s.flags } := by
  rw [← shiftHist_four s.hist] at hm ⊢
  rw [runInstrs_three_of_none (matchTurn_none_of_symbol ha _) (matchTurn_none_of_symbol hb _)
    (matchTurn_none_of_symbol hc _), runInstrs_cons, runInstrs_nil]
  have hlast := sampleEffect_of_some (s := putHist (shiftHist (shiftHist (shiftHist s.hist a) b) c) s) hm
  exact congrArg Host.Outcome.next hlast

/-- Settles O28: the symbols of each turn spell its pattern. -/
theorem fullTurnCountsOneIndent : Obligations.FullTurnCountsOneIndent :=
  fun s => ⟨runInstrs_turn (by decide) (by decide) (by decide) (d := .cw) (by decide) s,
    runInstrs_turn (by decide) (by decide) (by decide) (d := .ccw) (by decide) s⟩

end Sys2Proof.Machine
end

section
/-! PROOFS. BEDGE beside the other transactions: the levels and QSAMPLE do not touch what it reads, runs of BEDGEs invert BTN,
and the first edges after reset (R54, R135, R148, R246). -/

namespace Sys2Proof.Machine

variable {w : Nat}

/-- BEDGE neither reads nor writes the levels the front ends hold (R135). -/
theorem edgeEffect_with_levels (s : State.At w) (a b c : Level) :
    edgeEffect { s with qaPrev := a, qbPrev := b, btnPrev := c } =
      { edgeEffect s with qaPrev := a, qbPrev := b, btnPrev := c } := by
  have ha : edgeAccepted { s with qaPrev := a, qbPrev := b, btnPrev := c } = edgeAccepted s := rfl
  have hflags : (edgeEffect { s with qaPrev := a, qbPrev := b, btnPrev := c }).flags = (edgeEffect s).flags :=
    flags_ext fun f => by
      rw [edgeEffect_flags, edgeEffect_flags]
      rfl
  apply state_ext <;> simp [edgeEffect_btn, edgeEffect_debounceTs, edgeEffect_lastClick, ha, hflags]

/-- Settles O33: the levels pass through BEDGE's effect. -/
theorem bedgeIgnoresPinLevels : Obligations.BedgeIgnoresPinLevels := by
  intro s t a b c ht
  obtain rfl := exec_next ht
  exact (exec_eq _ _).trans (congrArg _ (edgeEffect_with_levels s a b c))

/-! ## QSAMPLE and BEDGE -/

/-- Whether an edge is accepted does not depend on a QSAMPLE before it (R54). -/
theorem edgeAccepted_sampleEffect (sym : BitVec 2) (s : State.At w) :
    edgeAccepted (sampleEffect sym s) = edgeAccepted s := by
  simp [edgeAccepted]

/-- Nor do the flags it raises (R54). -/
theorem edgeRaises_sampleEffect (sym : BitVec 2) (s : State.At w) (f : Flag) :
    edgeRaises (sampleEffect sym s) f = edgeRaises s f := by
  simp [edgeRaises, edgeAccepted_sampleEffect]

/-- Each writes fields the other does not read, and each raises its own flags (R54). -/
theorem edgeEffect_sampleEffect_comm (sym : BitVec 2) (s : State.At w) :
    edgeEffect (sampleEffect sym s) = sampleEffect sym (edgeEffect s) := by
  have hflags : (edgeEffect (sampleEffect sym s)).flags = (sampleEffect sym (edgeEffect s)).flags :=
    flags_ext fun f => by
      simp only [edgeEffect_flags, sampleEffect_flags, edgeRaises_sampleEffect, edgeEffect_hist, Bool.or_right_comm]
  apply state_ext <;> simp [sampleEffect_position, sampleEffect_delta, edgeEffect_btn, edgeEffect_debounceTs,
    edgeEffect_lastClick, edgeAccepted_sampleEffect, hflags]

/-- Settles O42: both orders leave the state of QSAMPLE first. -/
theorem eventsCommute : Obligations.EventsCommute := by
  intro s sym
  refine ⟨edgeEffect (sampleEffect sym s), ?_, ?_⟩
  · simp only [runInstrs_cons, runInstrs_nil, effect]
  · simp only [runInstrs_cons, runInstrs_nil, effect, edgeEffect_sampleEffect_comm]

/-! ## Runs of BEDGEs -/

theorem otherButton_otherButton (b : Button) : otherButton (otherButton b) = b := by
  cases b <;> rfl

/-- The first BEDGE of a run is counted when it is accepted (R148). -/
theorem acceptedEdges_cons (t : Timestamp) (ts : List Timestamp) (s : State) :
    acceptedEdges (t :: ts) s = (if edgeAccepted { s with now := t } then 1 else 0) + acceptedEdges ts (edgeAt s t) := by
  rw [acceptedEdges, exec_bedge_at]

/-- A BEDGE inverts BTN exactly when it is accepted (R137). -/
theorem edgeAt_btn (s : State.At w) (t : BitVec w) :
    (edgeAt s t).btn = if edgeAccepted { s with now := t } then otherButton s.btn else s.btn :=
  edgeEffect_btn { s with now := t }

/-- Each accepted BEDGE of a run inverts BTN, so their number modulo 2 decides it (R148). -/
theorem foldl_edgeAt_btn (ts : List Timestamp) (s : State) :
    (ts.foldl edgeAt s).btn = if acceptedEdges ts s % 2 = 0 then s.btn else otherButton s.btn := by
  induction ts generalizing s with
  | nil => rfl
  | cons t ts ih =>
    rw [List.foldl_cons, ih, acceptedEdges_cons, edgeAt_btn]
    by_cases ha : edgeAccepted { s with now := t } = true
    · obtain heven | hodd := Nat.mod_two_eq_zero_or_one (acceptedEdges ts (edgeAt s t))
      · simp [ha, Nat.add_mod, heven]
      · simp [ha, Nat.add_mod, hodd, otherButton_otherButton]
    · simp [ha]

/-- Settles O34, by induction on the BEDGEs. -/
theorem acceptedEdgesAlternate : Obligations.AcceptedEdgesAlternate :=
  fun ts s => ⟨_, runEdges_eq ts s, foldl_edgeAt_btn ts s⟩

/-! ## Timestamps -/

/-- Settles O37: the difference of the two times is the elapsed time as the width shows it. -/
theorem timeDifferencesWrap : Obligations.TimeDifferencesWrap := by
  intro w since elapsed
  have hseen : (since + BitVec.ofNat w elapsed - since).toNat = elapsed % 2 ^ w := by
    rw [add_sub_cancel_left, BitVec.toNat_ofNat]
  exact ⟨hseen, by rw [insideDebounce_iff, hseen], by rw [insideDoubleClick_iff, hseen]⟩

/-- A press raises no flag but Pressed (R134). -/
theorem edgeAt_press_flags {s : State.At w} {t : BitVec w} (hon : s.hasButton = true)
    (hlate : 10000 ≤ (t - s.debounceTs).toNat) (hb : s.btn = .released) {f : Flag} (hf : f ≠ .pressed) :
    readFlag f (edgeAt s t).flags = readFlag f s.flags := by
  rw [edgeAt, edgeEffect_flags, edgeRaises_press_of_ne ((edgeAccepted_at_iff hon).2 hlate) hb hf, Bool.or_false]

/-- Settles O59: both windows of the first edges are taken against the timestamps' reset value 0. -/
theorem resetTimestampsShow : Obligations.ResetTimestampsShow := by
  intro s hon hb hts hclick hlow
  have helapsed (t1 : Timestamp) : (t1 - s.debounceTs).toNat = t1.toNat := by rw [hts, sub_zero]
  refine ⟨fun t1 hearly => ?discarded, fun t1 t2 hlate hgap => ?release⟩
  case discarded =>
    exact (runEdges_eq [t1] s).trans (congrArg _ (edgeAt_of_early hon ((helapsed t1).trans_lt hearly)))
  case release =>
    have hlate1 := hlate.trans_eq (helapsed t1).symm
    obtain ⟨hon1, hb1, hstamp1, hclick1⟩ := edgeAt_press hon hlate1 hb
    obtain ⟨hclicked, hdouble⟩ := edgeAt_release_flags hon1 (by rwa [hstamp1]) hb1 (t := t2)
    rw [edgeAt_press_flags hon hlate1 hb (by decide), hlow, hclick1, hclick, sub_zero, Bool.false_or] at hdouble
    exact ⟨_, runEdges_eq [t1, t2] s, hclicked, hdouble⟩

end Sys2Proof.Machine
end

section
/-! PROOFS. The button over a whole cycle: HAS_BUTTON, the flags an event sets beside a command, a button held through reset,
and the invariant of the reachable states (R34, R55, R131, R245). -/

namespace Sys2Proof.Machine

/-! ## HAS_BUTTON -/

/-- Settles O11: no transaction of a cycle writes HAS_BUTTON. -/
theorem hasButtonFixedFromReset : Obligations.HasButtonFixedFromReset := by
  intro s t hr hstep
  obtain ⟨-, -, -, hbutton, -⟩ := beforeEdge_button hr
  rw [step_next_of_no_rst hstep hr, latchLevels_hasButton, ← hbutton]
  cases nextEdge s with
  | none => rfl
  | some i =>
    obtain ⟨-, -, -, -, hon, -⟩ := effect_keeps i (beforeEdge s)
    exact hon

/-! ## The flags an event sets -/

/-- The BEDGE of a cycle finds the button's flags as the host command left them (R104). -/
theorem readFlag_beforeEdge {s : State} (hr : (nextInput s).rst = false) {f : Flag} (hf : f ≠ .moved) :
    readFlag f (beforeEdge s).flags = readFlag f (afterCommand s).flags := by
  obtain ⟨-, -, -, -, -, -, hflags⟩ := sampleEvent_keeps (nextWords s) (afterCommand s)
  rw [beforeEdge, nextSample_of_no_rst hr, hflags f hf]

/-- The flags after a cycle with a BEDGE: those before it, and those it raises (R133, R134). -/
theorem step_flags_of_edge {s t : State} (h : step s = .next t) (hr : (nextInput s).rst = false)
    (he : nextEdge s = some .bedge) (f : Flag) :
    readFlag f t.flags = (readFlag f (beforeEdge s).flags || edgeRaises (beforeEdge s) f) := by
  rw [step_next_of_no_rst h hr, he, latchLevels_flags, eventEffect, effect, edgeEffect_flags]

/-- A cycle that takes a QSAMPLE or a BEDGE is one without RST (R230). -/
theorem no_rst_of_event {s : State} {i : Instr} (h : nextSample s = some i ∨ nextEdge s = some i) :
    (nextInput s).rst = false := by
  by_contra hrst
  simp [nextSample, nextEdge, hrst] at h

/-- Settles O43: the events run after the host command, and no later event lowers a flag. -/
theorem setWinsOverSameCycleClear : Obligations.SetWinsOverSameCycleClear := by
  refine ⟨fun s sym hs hpat => ⟨_, step_eq s, ?moved⟩, fun s he hon hlate => ⟨_, step_eq s, ?button⟩⟩
  case moved =>
    have hr := no_rst_of_event (.inl hs)
    have hmatch : (matchTurn (shiftHist s.hist sym)).isSome = true := matchTurn_isSome_iff.2 hpat
    obtain ⟨-, -, -, -, hkept⟩ := edgeEvent_keeps (nextWords s) (beforeEdge s)
    rw [step_next_of_no_rst (step_eq s) hr, latchLevels_flags, nextEdge_of_no_rst hr]
    apply hkept
    simp [beforeEdge, hs, eventEffect, effect, sampleEffect_flags, afterCommand_hist, hmatch]
  case button =>
    have hr := no_rst_of_event (.inr he)
    have hflags := step_flags_of_edge (step_eq s) hr he
    have ha := (edgeAccepted_beforeEdge hr).2 ⟨hon, hlate⟩
    obtain ⟨hbtn, -, hclick, -, hnow⟩ := beforeEdge_button hr
    refine ⟨fun hb => ?_, fun hb => ?_, fun hb hgap => ?_⟩
    · obtain ⟨hpressed, -, -⟩ := edgeRaises_press ha (hbtn.trans hb)
      rw [hflags, hpressed, Bool.or_true]
    · obtain ⟨-, hclicked, -⟩ := edgeRaises_release ha (hbtn.trans hb)
      rw [hflags, hclicked, Bool.or_true]
    · obtain ⟨-, -, hdouble⟩ := edgeRaises_release ha (hbtn.trans hb)
      rw [hnow, hclick, (insideDoubleClick_iff _ _).2 hgap] at hdouble
      rw [hflags, hdouble, Bool.or_true]

/-- Settles O58: the pin's change makes a BEDGE, which BTN alone tells to be a press. -/
theorem heldButtonReleaseIsTakenAsPress : Obligations.HeldButtonReleaseIsTakenAsPress := by
  intro s c cs hstim hr hevents hcmd hcap hon hb hprev hopen hlate
  obtain ⟨rfl, -⟩ := nextInput_of_cons hstim
  have hchange : (nextInput s).btnIn ≠ s.btnPrev := by simp [hopen, hprev]
  have he : nextEdge s = some .bedge := (nextEdge_of_pins hr hevents).trans (if_pos ⟨hon, hcap, hchange⟩)
  have hflags := step_flags_of_edge (step_eq s) hr he
  have ha := (edgeAccepted_beforeEdge hr).2 ⟨hon, hlate⟩
  obtain ⟨hbtn, -⟩ := beforeEdge_button hr
  obtain ⟨hpressed, hclicked, -⟩ := edgeRaises_press ha (hbtn.trans hb)
  refine ⟨_, step_eq s, ?button, by rw [hflags, hpressed, Bool.or_true], ?clicked⟩
  case button =>
    obtain ⟨-, -, hwriters⟩ := acceptedEdgesAloneWriteButtonRegisters
    obtain ⟨haccepted, -⟩ := hwriters s _ (step_eq s) hr
    obtain ⟨hother, -⟩ := haccepted ⟨he, hon, hlate⟩
    rw [hother, hb, otherButton]
  case clicked =>
    have hnone : nextCommand s = none := by simp [nextCommand, hcmd]
    rw [hflags, hclicked, Bool.or_false, readFlag_beforeEdge hr (by decide), readFlag_afterCommand hr, hnone]
    exact Bool.and_true _

/-! ## The invariant of the reachable states -/

/-- The button's reset values and an idle response port meet the invariant (R33). -/
theorem inv_of_reset_values {s : State} (hb : s.btn = .released) (hts : s.debounceTs = 0) (hclick : s.lastClick = 0)
    (hflags : s.flags = 0#4) (hresp : s.response = none) : Inv s where
  disabled_at_rest _ := by simp [ButtonAtRest, hb, hts, hclick, hflags]
  released_stamps _ := hts.trans hclick.symm
  err_without_data r hr := by simp [hresp] at hr

/-- Settles O49: whatever stimulus follows, the reset state holds those values. -/
theorem resetMeetsInv : Obligations.ResetMeetsInv := fun _ => inv_of_reset_values rfl rfl rfl rfl rfl

section
variable {s t : State} (hstep : step s = .next t) (hr : (nextInput s).rst = false)
include hstep hr

/-- A cycle without RST keeps a disabled button at rest: its BEDGE is not accepted, and its host command only lowers flags
(R131). -/
theorem step_keeps_atRest (hoff : s.hasButton = false) (hrest : ButtonAtRest s) : ButtonAtRest t := by
  obtain ⟨hb, hts, hclick, hpressed, hclicked, hdouble⟩ := hrest
  obtain ⟨hbtn, hdebounce, hlast, hbutton, -⟩ := beforeEdge_button hr
  have hna : ¬(nextEdge s = some .bedge ∧ edgeAccepted (beforeEdge s) = true) := fun ⟨_, ha⟩ => by
    simp [edgeAccepted_beforeEdge hr, hoff] at ha
  have hlow {f : Flag} (hf : f ≠ .moved) (h : readFlag f s.flags = false) : readFlag f (beforeEdge s).flags = false := by
    rw [readFlag_beforeEdge hr hf, readFlag_afterCommand hr, h, Bool.false_and]
  rw [step_next_of_no_rst hstep hr, nextEdge_effect_of_not_accepted hr hna]
  exact ⟨hbtn.trans hb, hdebounce.trans hts, hlast.trans hclick, hlow (by decide) hpressed, hlow (by decide) hclicked,
    hlow (by decide) hdouble⟩

/-- A cycle without RST that leaves BTN Released leaves both timestamps equal: an accepted release stamps both, and without
an accepted BEDGE they stay (R133, R135). -/
theorem step_keeps_released_stamps (hstamps : s.btn = .released → s.debounceTs = s.lastClick)
    (hb : t.btn = .released) : t.debounceTs = t.lastClick := by
  obtain ⟨-, -, hwriters⟩ := acceptedEdgesAloneWriteButtonRegisters
  obtain ⟨haccepted, hkept, hrelease, hclick⟩ := hwriters s t hstep hr
  by_cases ha : nextEdge s = some .bedge ∧ s.hasButton = true ∧ 10000 ≤ ((nextInput s).now - s.debounceTs).toNat
  · obtain ⟨hbtn, hts⟩ := haccepted ha
    have hpressed : s.btn = .pressed := by rw [← otherButton_otherButton s.btn, ← hbtn, hb, otherButton]
    rw [hts, hrelease ha hpressed]
  · obtain ⟨hbtn, hts⟩ := hkept ha
    rw [hts, hclick fun h => ha h.1, hstamps (hbtn.symm.trans hb)]

/-- After a cycle without RST an ERR response carries no data (R76, R201). -/
theorem step_err_without_data {r : Response} (hresp : t.response = some r) (herr : r.err = true) : r.rdata = 0 := by
  rw [step_response_of_no_rst hstep hr] at hresp
  cases hc : (nextInput s).command with
  | none => cases (afterCommand_response_of_none hc).symm.trans hresp
  | some word =>
    obtain ⟨i, hd⟩ | hd := decodeCommand_cases word
    · obtain ⟨data, hok⟩ := afterCommand_response_of_ok hc hd
      cases hok.symm.trans hresp
      cases herr
    · rw [afterCommand_of_illegal hc hd] at hresp
      cases hresp
      rfl

end

/-- Settles O48: RST restores the reset values, and every other cycle keeps the three clauses one by one. -/
theorem everyStepKeepsInv : Obligations.EveryStepKeepsInv := by
  intro s t hinv hstep
  cases hr : (nextInput s).rst with
  | true =>
    obtain rfl := Host.Outcome.next.inj (hstep.symm.trans (step_of_rst hr))
    exact inv_of_reset_values rfl rfl rfl rfl rfl
  | false =>
    refine ⟨fun hoff => ?_, step_keeps_released_stamps hstep hr hinv.released_stamps,
      fun r => step_err_without_data hstep hr⟩
    rw [hasButtonFixedFromReset s t hr hstep] at hoff
    exact step_keeps_atRest hstep hr hoff (hinv.disabled_at_rest hoff)

end Sys2Proof.Machine
end

section
/-! PROOFS. A cycle that presents one word runs the instruction the word decodes to (R50, R53, R79). -/

namespace Sys2Proof.Machine

variable {w : Nat}

/-- Nothing stands at the event port in the capture cycle, or where no word is presented (R79, R231). -/
theorem presentedWords_eq_nil {c : CycleInput.At w} {s : State.At w} (h : s.capture = true ∨ c.events = some []) :
    presentedWords c s = [] := by
  unfold presentedWords
  obtain h | h := h
  · rw [if_pos h]
  · rw [h, ite_self]

/-- After the capture cycle the words presented at the event-level interface stand at the port (R79). -/
theorem presentedWords_of_events {c : CycleInput.At w} {s : State.At w} {ws : List EventWord} (hcap : s.capture = false)
    (h : c.events = some ws) : presentedWords c s = ws := by
  simp [presentedWords, hcap, h]

/-- The one event word of a cycle is taken as the event it decodes to (R53, R81). -/
theorem eventEffect_of_word {e : EventWord} {i : Instr} (hd : decodeEvent e = .ok i) (s : State.At w) :
    eventEffect (edgeOf [e]) (eventEffect (sampleOf [e]) s) = effect i s := by
  obtain ⟨sym, rfl⟩ | rfl := decodeEvent_ok hd
  · simp [sampleOf, edgeOf, asSample, asEdge, hd, eventEffect]
  · simp [sampleOf, edgeOf, asSample, asEdge, hd, eventEffect]

/-- Settles O38: with no word at the event port, the cycle is its command and the levels. -/
theorem stepRunsDecodedCommand : Obligations.StepRunsDecodedCommand := by
  intro s c cs word i hstim hr hcmd hd hquiet
  have hd' : decodeCommand word = .ok i := hd
  have hwords : presentedWords c { s with stimulus := cs } = [] := presentedWords_eq_nil hquiet
  have hcommand (u : State) : commandEffect c u = effect i u := by simp only [commandEffect, hcmd, hd']
  rw [step_of_cons hstim, exec_eq, andThen_next, cycleEffect, hr, hwords, hcommand]
  rfl

/-- Settles O39: without a command, the cycle is its one event and the levels. -/
theorem stepRunsDecodedEvent : Obligations.StepRunsDecodedEvent := by
  intro s c cs e i hstim hr hcmd hcap hevents hd
  have hwords : presentedWords c { s with stimulus := cs } = [e] := presentedWords_of_events hcap hevents
  have hcommand (u : State) : commandEffect c u = u := by simp only [commandEffect, hcmd]
  rw [step_of_cons hstim, exec_eq, andThen_next, cycleEffect, hr, hwords, hcommand, eventEffect_of_word hd]
  rfl

/-- The instruction of a table row of more than 8 bits is its command word's (R75). -/
theorem decodeCommand_of_tableWord {word : Nat} {i : Instr} (h : decodeTableWord 32 word = some i) :
    decodeCommand (BitVec.ofNat 32 word) = .ok i := by
  cases hd : decodeCommand (BitVec.ofNat 32 word) <;> simp_all [decodeTableWord, Except.toOption]

/-- The instruction of a table row of 8 bits is its event word's (R81). -/
theorem decodeEvent_of_tableWord {word : Nat} {i : Instr} (h : decodeTableWord 8 word = some i) :
    decodeEvent (BitVec.ofNat 8 word) = .ok i := by
  cases hd : decodeEvent (BitVec.ofNat 8 word) <;> simp_all [decodeTableWord, Except.toOption]

/-- Settles O40: placing a row's word presents it alone, with the pins at their levels. -/
theorem placedTableWordRuns : Obligations.PlacedTableWordRuns := by
  refine fun s word i => ⟨fun h => ?command, fun h => ?event⟩
  case command =>
    exact stepRunsDecodedCommand (s.withFetchWord 32 word) (quietInput s (some (BitVec.ofNat 32 word)) []) s.stimulus _ i
      rfl rfl rfl (decodeCommand_of_tableWord h) (.inr rfl)
  case event =>
    exact stepRunsDecodedEvent (s.withFetchWord 8 word) (quietInput s none [BitVec.ofNat 8 word]) s.stimulus _ i
      rfl rfl rfl rfl rfl (decodeEvent_of_tableWord h)

end Sys2Proof.Machine
end
